-- ==== Sys2Proof/Word.lean ====
section
/-! DEFINITION. The machine's one word type. Registers, PC, LR, SP, addresses, memory words and
instruction words are all 16 bits wide (10_state.md R20, R22 to R24, 20_memory.md R40,
30_encoding.md R60). -/

namespace Sys2Proof

/-- A 16-bit word; bit 15 is the most significant bit (00_scope.md R6). `+` and `-` wrap modulo
65536 (00_scope.md R7). -/
abbrev Word := BitVec 16

end Sys2Proof
end

