-- ==== Sys2Proof/Config.lean ====
section
/-! DEFINITION. The implementation parameters of 00_scope.md R5 that the spec leaves OPEN, as plain
data. `Params.default` holds the defaults that the spec's own rules, examples and vectors use. A
state carries one `Params` (notes/assumptions/1.md), so a statement about every state holds for
every choice of them. -/

namespace Sys2Proof

/-- `MEM_ORG`: where instructions are fetched from (20_memory.md R41). -/
inductive MemOrg where
  | unified
  | harvard
  deriving DecidableEq, Repr

/-- A block of word addresses, both ends included. -/
structure AddrRange where
  first : Word
  last : Word
  deriving DecidableEq, Repr

/-- `IMM4_POS`: which four bits hold imm4 (30_encoding.md R64). -/
inductive Imm4Pos where
  /-- `w[9:6]`, bit 10 ignored. -/
  | low
  /-- `w[10:7]`, bit 6 ignored. -/
  | high
  deriving DecidableEq, Repr

/-- `BRANCH_BASE`: the address a branch displacement is added to (92_eei_decisions.md D5,
93_implementation_defined.md U18). What else it leaves alone is DEDUCED, notes/assumptions/16.md. -/
inductive BranchBase where
  /-- The address of the branch plus 1. -/
  | afterBranch
  /-- The address of the branch itself. -/
  | atBranch
  deriving DecidableEq, Repr

/-- `SUB_CARRY`: the sense of c after a subtraction
(92_eei_decisions.md D7, 93_implementation_defined.md U17). -/
inductive SubCarry where
  | notBorrow
  | borrow
  deriving DecidableEq, Repr

/-- `STACK_DIR_BIT`: the bit of format E that tells POP from PUSH (30_encoding.md R69). -/
structure StackDirBit where
  /-- The bit's place in `w[9:3]`, counted from bit 3 (90_conflicts.md C3: some bit among these;
  DEDUCED, notes/assumptions/16.md). -/
  place : Fin 7
  /-- The value of the bit that means POP. -/
  popValue : Bool
  deriving DecidableEq, Repr

/-- The OPEN parameters of a run (00_scope.md R5). -/
structure Params where
  memOrg : MemOrg
  /-- The addresses for which `MEM_VALID` is false (20_memory.md R56), as blocks. -/
  unbacked : List AddrRange
  pcReset : Word
  spReset : Word
  imm4Pos : Imm4Pos
  branchBase : BranchBase
  subCarry : SubCarry
  stackDirBit : StackDirBit
  stackFull : Bool
  deriving DecidableEq, Repr

/-- The defaults of 00_scope.md R5. `SP_RESET` has none there: 0x01FF is the value that every
program of 95_test_vectors.md T10 states (DESIGN CHOICE, notes/assumptions/6.md). -/
def Params.default : Params where
  memOrg := .unified
  unbacked := []
  pcReset := 0x0000#16
  spReset := 0x01FF#16
  imm4Pos := .low
  branchBase := .afterBranch
  subCarry := .notBorrow
  stackDirBit := { place := 6, popValue := true }
  stackFull := true

end Sys2Proof
end

