-- ==== Sys2Proof/Syntax.lean ====
section
/-! DEFINITION. The instructions: one constructor of `Instr` for each row of opcode_table.json (the
35 instructions of 30_encoding.md R75 and the six UNDEFINED opcodes of R73), and the assembler's
instructions of R76, whose operands are the numbers a programmer writes. -/

namespace Sys2Proof

/-- The number of a general register, R0 to R7 (10_state.md R20). -/
abbrev Reg := Fin 8

/-- The one operand of PUSH and POP: a general register (L = 0) or the link register (L = 1)
(30_encoding.md R69, R76). -/
inductive StackOperand where
  | reg (ra : Reg)
  | link
  deriving DecidableEq, Repr

/-- A decoded instruction. Register operands come in the order of the Syntax column, destination
first (30_encoding.md R76). The types hold exactly the values the fields can encode (R62 to R69). -/
inductive Instr where
  | add (rd ra rb : Reg)
  | addi (rd ra : Reg) (imm5 : BitVec 5)
  | addib (rd : Reg) (imm8 : BitVec 8)
  | adc (rd ra rb : Reg)
  | adci (rd ra : Reg) (imm5 : BitVec 5)
  | neg (rd : Reg)
  | sub (rd ra rb : Reg)
  | subi (rd ra : Reg) (imm5 : BitVec 5)
  | subib (rd : Reg) (imm8 : BitVec 8)
  | suc (rd ra rb : Reg)
  | suci (rd ra : Reg) (imm5 : BitVec 5)
  | cmp (ra rb : Reg)
  | and (rd ra rb : Reg)
  | or (rd ra rb : Reg)
  | xor (rd ra rb : Reg)
  | not (rd ra : Reg)
  | nand (rd ra rb : Reg)
  | nor (rd ra rb : Reg)
  | lsl (rd ra : Reg) (imm4 : BitVec 4)
  | lsr (rd ra : Reg) (imm4 : BitVec 4)
  | asr (rd ra : Reg) (imm4 : BitVec 4)
  | ldw (rd ra ro : Reg)
  | sdw (rd ra ro : Reg)
  | lui (rd : Reg) (imm8 : BitVec 8)
  | lli (rd : Reg) (imm8 : BitVec 8)
  | br (imm8 : BitVec 8)
  | bne (imm8 : BitVec 8)
  | be (imm8 : BitVec 8)
  | blt (imm8 : BitVec 8)
  | bge (imm8 : BitVec 8)
  | bwl (imm8 : BitVec 8)
  | ret
  | abr (ra : Reg)
  | push (operand : StackOperand)
  | pop (operand : StackOperand)
  /-- The UNDEFINED rows keep the whole fetched word: a fault records it (60_exceptions.md R181). -/
  | undefined00000 (w : Word)
  | undefined01110 (w : Word)
  | undefined01111 (w : Word)
  | undefined10110 (w : Word)
  | undefined10111 (w : Word)
  | undefined11110 (w : Word)
  deriving DecidableEq, Repr

/-- The operand of PUSH and POP as written: `Rn`, or `RL` (30_encoding.md R76). -/
inductive AsmStackOperand where
  | reg (ra : Nat)
  | rl
  deriving DecidableEq, Repr

/-- An instruction as a programmer writes it: registers and immediates are plain numbers, and a
label stands for its address (30_encoding.md R76). No constructor for an UNDEFINED opcode: the
assembler accepts the 35 mnemonics and nothing else (R77). -/
inductive AsmInstr where
  | add (rd ra rb : Nat)
  | addi (rd ra : Nat) (imm5 : Int)
  | addib (rd : Nat) (imm8 : Int)
  | adc (rd ra rb : Nat)
  | adci (rd ra : Nat) (imm5 : Int)
  | neg (rd : Nat)
  | sub (rd ra rb : Nat)
  | subi (rd ra : Nat) (imm5 : Int)
  | subib (rd : Nat) (imm8 : Int)
  | suc (rd ra rb : Nat)
  | suci (rd ra : Nat) (imm5 : Int)
  | cmp (ra rb : Nat)
  | and (rd ra rb : Nat)
  | or (rd ra rb : Nat)
  | xor (rd ra rb : Nat)
  | not (rd ra : Nat)
  | nand (rd ra rb : Nat)
  | nor (rd ra rb : Nat)
  | lsl (rd ra : Nat) (imm4 : Int)
  | lsr (rd ra : Nat) (imm4 : Int)
  | asr (rd ra : Nat) (imm4 : Int)
  | ldw (rd ra ro : Nat)
  | sdw (rd ra ro : Nat)
  | lui (rd : Nat) (imm8 : Int)
  | lli (rd : Nat) (imm8 : Int)
  | br (label : Word)
  | bne (label : Word)
  | be (label : Word)
  | blt (label : Word)
  | bge (label : Word)
  | bwl (label : Word)
  | ret
  | abr (ra : Nat)
  | push (operand : AsmStackOperand)
  | pop (operand : AsmStackOperand)
  deriving DecidableEq, Repr

end Sys2Proof
end

