-- ==== Sys2Proof/WellFormed.lean ====
section
/-! DEFINITION. Which terms of `Instr` stand for an instruction word. The types of `Instr` already
keep every register number, immediate and operand choice in range (30_encoding.md R78), so the one
thing left to check is that an UNDEFINED term carries a word of its own opcode (R73). -/

namespace Sys2Proof

/-- The 5-bit opcode of a word, `w[15:11]`, in every format (30_encoding.md R61). -/
def opcodeBits (w : Word) : BitVec 5 := w.extractLsb' 11 5

/-- The instruction can be read from some word. -/
def Instr.wellFormed : Instr → Bool
  | .add _ _ _ => true
  | .addi _ _ _ => true
  | .addib _ _ => true
  | .adc _ _ _ => true
  | .adci _ _ _ => true
  | .neg _ => true
  | .sub _ _ _ => true
  | .subi _ _ _ => true
  | .subib _ _ => true
  | .suc _ _ _ => true
  | .suci _ _ _ => true
  | .cmp _ _ => true
  | .and _ _ _ => true
  | .or _ _ _ => true
  | .xor _ _ _ => true
  | .not _ _ => true
  | .nand _ _ _ => true
  | .nor _ _ _ => true
  | .lsl _ _ _ => true
  | .lsr _ _ _ => true
  | .asr _ _ _ => true
  | .ldw _ _ _ => true
  | .sdw _ _ _ => true
  | .lui _ _ => true
  | .lli _ _ => true
  | .br _ => true
  | .bne _ => true
  | .be _ => true
  | .blt _ => true
  | .bge _ => true
  | .bwl _ => true
  | .ret => true
  | .abr _ => true
  | .push _ => true
  | .pop _ => true
  | .undefined00000 w => opcodeBits w == 0b00000#5
  | .undefined01110 w => opcodeBits w == 0b01110#5
  | .undefined01111 w => opcodeBits w == 0b01111#5
  | .undefined10110 w => opcodeBits w == 0b10110#5
  | .undefined10111 w => opcodeBits w == 0b10111#5
  | .undefined11110 w => opcodeBits w == 0b11110#5

end Sys2Proof
end

