-- ==== Sys2Proof/Decode.lean ====
section
/-! DEFINITION. Decoding a word into an instruction (30_encoding.md R60 to R73, R81), encoding an
instruction into its word with 0 in every X bit and unused field (R72, R81), and the assembler's
operand checks (R76, R78). Decoding is total on the 65536 words (R70): the six opcodes without an
instruction are read as the UNDEFINED rows, by name. -/

namespace Sys2Proof

/-! ## Fields of a word -/

/-- The 3-bit register field whose lowest bit is `lo` (30_encoding.md R62 to R69). -/
def regField (w : Word) (lo : Nat) : Reg := (w.extractLsb' lo 3).toFin

/-- `rd = w[2:0]` in formats A, B and C; the field that format E calls ra (90_conflicts.md C12). -/
def rdField (w : Word) : Reg := regField w 0

/-- `ra = w[5:3]` in formats A, C and D. -/
def raField (w : Word) : Reg := regField w 3

/-- `rb = w[8:6]` in format A, and `ro = w[8:6]` in format C. -/
def rbField (w : Word) : Reg := regField w 6

/-- `imm5 = w[10:6]` (30_encoding.md R63). -/
def imm5Field (w : Word) : BitVec 5 := w.extractLsb' 6 5

/-- `imm4`, at the place `IMM4_POS` says (30_encoding.md R64). -/
def imm4Field (p : Params) (w : Word) : BitVec 4 :=
  match p.imm4Pos with
  | .low => w.extractLsb' 6 4
  | .high => w.extractLsb' 7 4

/-- `imm8 = w[10:3]` in formats B and D (30_encoding.md R65, R67). -/
def imm8Field (w : Word) : BitVec 8 := w.extractLsb' 3 8

/-- The operand of a stack instruction: `L = w[10]` selects the link register (30_encoding.md R69). -/
def stackOperandField (w : Word) : StackOperand :=
  if w.getLsbD 10 then .link else .reg (rdField w)

/-- Whether a word of opcode 11100 is a POP: the bit at `STACK_DIR_BIT` (30_encoding.md R69). -/
def isPopWord (p : Params) (w : Word) : Bool :=
  w.getLsbD (3 + p.stackDirBit.place.val) == p.stackDirBit.popValue

/-! ## Decoding -/

/-- Opcode 11100: PUSH or POP (30_encoding.md R70). -/
def decodeStack (p : Params) (w : Word) : Instr :=
  if isPopWord p w then .pop (stackOperandField w) else .push (stackOperandField w)

/-- Opcode 11101: `LS = w[9]`, 1 = LDW, 0 = SDW (30_encoding.md R66). -/
def decodeTransfer (w : Word) : Instr :=
  if w.getLsbD 9 then .ldw (rdField w) (raField w) (rbField w)
  else .sdw (rdField w) (raField w) (rbField w)

/-- Opcode 11111: the eight control transfers, by `cond = w[2:0]` (30_encoding.md R67, R68). -/
def decodeControl (w : Word) : Instr :=
  match w.getLsbD 2, w.getLsbD 1, w.getLsbD 0 with
  | false, false, false => .br (imm8Field w)
  | false, false, true  => .abr (raField w)
  | false, true,  false => .ret
  | false, true,  true  => .bwl (imm8Field w)
  | true,  false, false => .blt (imm8Field w)
  | true,  false, true  => .bge (imm8Field w)
  | true,  true,  false => .bne (imm8Field w)
  | true,  true,  true  => .be (imm8Field w)

/-- The decoder of 30_encoding.md R70, one line for each value of `w[15:11]`, bit 15 first. X bits
and fields that an instruction does not use take no part (R72, R81: the spec's decisions D9 and D10,
notes/assumptions/11.md). -/
def decode (p : Params) (w : Word) : Instr :=
  match w.getLsbD 15, w.getLsbD 14, w.getLsbD 13, w.getLsbD 12, w.getLsbD 11 with
  | false, false, false, false, false => .undefined00000 w
  | false, false, false, false, true  => .lsl (rdField w) (raField w) (imm4Field p w)
  | false, false, false, true , false => .lsr (rdField w) (raField w) (imm4Field p w)
  | false, false, false, true , true  => .asr (rdField w) (raField w) (imm4Field p w)
  | false, false, true , false, false => .add (rdField w) (raField w) (rbField w)
  | false, false, true , false, true  => .addi (rdField w) (raField w) (imm5Field w)
  | false, false, true , true , false => .adc (rdField w) (raField w) (rbField w)
  | false, false, true , true , true  => .adci (rdField w) (raField w) (imm5Field w)
  | false, true , false, false, false => .neg (rdField w)
  | false, true , false, false, true  => .sub (rdField w) (raField w) (rbField w)
  | false, true , false, true , false => .subi (rdField w) (raField w) (imm5Field w)
  | false, true , false, true , true  => .suc (rdField w) (raField w) (rbField w)
  | false, true , true , false, false => .suci (rdField w) (raField w) (imm5Field w)
  | false, true , true , false, true  => .cmp (raField w) (rbField w)
  | false, true , true , true , false => .undefined01110 w
  | false, true , true , true , true  => .undefined01111 w
  | true , false, false, false, false => .and (rdField w) (raField w) (rbField w)
  | true , false, false, false, true  => .or (rdField w) (raField w) (rbField w)
  | true , false, false, true , false => .xor (rdField w) (raField w) (rbField w)
  | true , false, false, true , true  => .not (rdField w) (raField w)
  | true , false, true , false, false => .nand (rdField w) (raField w) (rbField w)
  | true , false, true , false, true  => .nor (rdField w) (raField w) (rbField w)
  | true , false, true , true , false => .undefined10110 w
  | true , false, true , true , true  => .undefined10111 w
  | true , true , false, false, false => .addib (rdField w) (imm8Field w)
  | true , true , false, false, true  => .subib (rdField w) (imm8Field w)
  | true , true , false, true , false => .lui (rdField w) (imm8Field w)
  | true , true , false, true , true  => .lli (rdField w) (imm8Field w)
  | true , true , true , false, false => decodeStack p w
  | true , true , true , false, true  => decodeTransfer w
  | true , true , true , true , false => .undefined11110 w
  | true , true , true , true , true  => decodeControl w

/-- What the decoder reads from an instruction of `nbits` bits whose bits are `w`, numbered as
opcode_table.json numbers them: every instruction is one 16-bit word, so bits above it are refused.
The encoding parameters stand at their defaults (00_scope.md R5). -/
def decodeTableWord (nbits w : Nat) : Option Instr :=
  if nbits ≤ 16 ∧ w < 2 ^ 16 then some (decode Params.default (BitVec.ofNat 16 w)) else none

/-! ## Encoding -/

/-- A register number as a 3-bit field. -/
def regBits (r : Reg) : BitVec 3 := BitVec.ofNat 3 r.val

/-- Format A, sub-type Register: `ooooo xx bbb aaa ddd` (30_encoding.md R62). -/
def encodeA (op : BitVec 5) (rb ra rd : BitVec 3) : Word := op ++ 0#2 ++ rb ++ ra ++ rd

/-- Format A with a 5-bit immediate: `ooooo iiiii aaa ddd` (30_encoding.md R63). -/
def encodeImm5 (op imm5 : BitVec 5) (ra rd : Reg) : Word := op ++ imm5 ++ regBits ra ++ regBits rd

/-- A 4-bit shift count in its 5-bit place, the unused bit 0 (30_encoding.md R64). -/
def imm4Bits (p : Params) (imm4 : BitVec 4) : BitVec 5 :=
  match p.imm4Pos with
  | .low => 0#1 ++ imm4
  | .high => imm4 ++ 0#1

/-- Format B: `ooooo iiiiiiii ddd` (30_encoding.md R65); format D has the same shape with the
condition in the low bits (R67). -/
def encodeImm8 (op : BitVec 5) (imm8 : BitVec 8) (low : BitVec 3) : Word := op ++ imm8 ++ low

/-- Format C: `11101 x LS ooo aaa ddd` (30_encoding.md R66). -/
def encodeC (ls : BitVec 1) (ro ra rd : Reg) : Word :=
  0b11101#5 ++ 0#1 ++ ls ++ regBits ro ++ regBits ra ++ regBits rd

/-- The seven bits `w[9:3]` of format E: `STACK_DIR_BIT` as the instruction needs it, X bits 0. -/
def stackDirBits (p : Params) (pop : Bool) : BitVec 7 :=
  if pop = p.stackDirBit.popValue then 1#7 <<< p.stackDirBit.place.val else 0#7

/-- Format E: `11100 L P xxxxxx aaa`, `P` at the place `STACK_DIR_BIT` says (30_encoding.md R69);
the register field is 0 when L = 1 (R81). -/
def encodeE (p : Params) (pop : Bool) : StackOperand → Word
  | .reg ra => 0b11100#5 ++ 0#1 ++ stackDirBits p pop ++ regBits ra
  | .link => 0b11100#5 ++ 1#1 ++ stackDirBits p pop ++ 0#3

/-- The word of an instruction, one line for each row of 30_encoding.md R75, with 0 in every X bit
and unused field (R72, R81). An UNDEFINED term carries its own word. -/
def encode (p : Params) : Instr → Word
  | .add rd ra rb => encodeA 0b00100 (regBits rb) (regBits ra) (regBits rd)
  | .addi rd ra imm5 => encodeImm5 0b00101 imm5 ra rd
  | .addib rd imm8 => encodeImm8 0b11000 imm8 (regBits rd)
  | .adc rd ra rb => encodeA 0b00110 (regBits rb) (regBits ra) (regBits rd)
  | .adci rd ra imm5 => encodeImm5 0b00111 imm5 ra rd
  | .neg rd => encodeA 0b01000 0 0 (regBits rd)
  | .sub rd ra rb => encodeA 0b01001 (regBits rb) (regBits ra) (regBits rd)
  | .subi rd ra imm5 => encodeImm5 0b01010 imm5 ra rd
  | .subib rd imm8 => encodeImm8 0b11001 imm8 (regBits rd)
  | .suc rd ra rb => encodeA 0b01011 (regBits rb) (regBits ra) (regBits rd)
  | .suci rd ra imm5 => encodeImm5 0b01100 imm5 ra rd
  | .cmp ra rb => encodeA 0b01101 (regBits rb) (regBits ra) 0
  | .and rd ra rb => encodeA 0b10000 (regBits rb) (regBits ra) (regBits rd)
  | .or rd ra rb => encodeA 0b10001 (regBits rb) (regBits ra) (regBits rd)
  | .xor rd ra rb => encodeA 0b10010 (regBits rb) (regBits ra) (regBits rd)
  | .not rd ra => encodeA 0b10011 0 (regBits ra) (regBits rd)
  | .nand rd ra rb => encodeA 0b10100 (regBits rb) (regBits ra) (regBits rd)
  | .nor rd ra rb => encodeA 0b10101 (regBits rb) (regBits ra) (regBits rd)
  | .lsl rd ra imm4 => encodeImm5 0b00001 (imm4Bits p imm4) ra rd
  | .lsr rd ra imm4 => encodeImm5 0b00010 (imm4Bits p imm4) ra rd
  | .asr rd ra imm4 => encodeImm5 0b00011 (imm4Bits p imm4) ra rd
  | .ldw rd ra ro => encodeC 1 ro ra rd
  | .sdw rd ra ro => encodeC 0 ro ra rd
  | .lui rd imm8 => encodeImm8 0b11010 imm8 (regBits rd)
  | .lli rd imm8 => encodeImm8 0b11011 imm8 (regBits rd)
  | .br imm8 => encodeImm8 0b11111 imm8 0b000
  | .bne imm8 => encodeImm8 0b11111 imm8 0b110
  | .be imm8 => encodeImm8 0b11111 imm8 0b111
  | .blt imm8 => encodeImm8 0b11111 imm8 0b100
  | .bge imm8 => encodeImm8 0b11111 imm8 0b101
  | .bwl imm8 => encodeImm8 0b11111 imm8 0b011
  | .ret => encodeImm8 0b11111 0 0b010
  | .abr ra => encodeImm8 0b11111 (0#5 ++ regBits ra) 0b001
  | .push operand => encodeE p false operand
  | .pop operand => encodeE p true operand
  | .undefined00000 w => w
  | .undefined01110 w => w
  | .undefined01111 w => w
  | .undefined10110 w => w
  | .undefined10111 w => w
  | .undefined11110 w => w

/-! ## The assembler's operands -/

/-- The address a branch displacement is relative to, for a branch at `a`: `BRANCH_BASE`
(43_control_transfer.md R150, 92_eei_decisions.md D5). -/
def branchBaseAddr (p : Params) (a : Word) : Word :=
  match p.branchBase with
  | .afterBranch => a + 1
  | .atBranch => a

/-- A register number; above 7 it is refused (30_encoding.md R78). -/
def asmReg (n : Nat) : Option Reg := if h : n < 8 then some ⟨n, h⟩ else none

/-- An unsigned immediate of `k` bits; outside 0 to `2^k - 1` it is refused (30_encoding.md R78). -/
def asmImm (k : Nat) (n : Int) : Option (BitVec k) :=
  if 0 ≤ n ∧ n < 2 ^ k then some (BitVec.ofInt k n) else none

/-- The imm8 of a branch at `a` to `label`; a distance outside -128 to +127 is refused
(30_encoding.md R76). The distance is taken modulo 65536, as branch targets are
(DEDUCED, notes/assumptions/10.md). -/
def asmLabel (p : Params) (a label : Word) : Option (BitVec 8) :=
  let distance := (label - branchBaseAddr p a).toInt
  if -128 ≤ distance ∧ distance ≤ 127 then some (BitVec.ofInt 8 distance) else none

/-- The operand of PUSH and POP (30_encoding.md R76). -/
def asmStackOperand : AsmStackOperand → Option StackOperand
  | .reg n => (asmReg n).map .reg
  | .rl => some .link

/-- The instruction an assembler makes of a line at address `a`, or a refusal (30_encoding.md R76,
R78). -/
def assemble (p : Params) (a : Word) : AsmInstr → Option Instr
  | .add rd ra rb => return .add (← asmReg rd) (← asmReg ra) (← asmReg rb)
  | .addi rd ra imm5 => return .addi (← asmReg rd) (← asmReg ra) (← asmImm 5 imm5)
  | .addib rd imm8 => return .addib (← asmReg rd) (← asmImm 8 imm8)
  | .adc rd ra rb => return .adc (← asmReg rd) (← asmReg ra) (← asmReg rb)
  | .adci rd ra imm5 => return .adci (← asmReg rd) (← asmReg ra) (← asmImm 5 imm5)
  | .neg rd => return .neg (← asmReg rd)
  | .sub rd ra rb => return .sub (← asmReg rd) (← asmReg ra) (← asmReg rb)
  | .subi rd ra imm5 => return .subi (← asmReg rd) (← asmReg ra) (← asmImm 5 imm5)
  | .subib rd imm8 => return .subib (← asmReg rd) (← asmImm 8 imm8)
  | .suc rd ra rb => return .suc (← asmReg rd) (← asmReg ra) (← asmReg rb)
  | .suci rd ra imm5 => return .suci (← asmReg rd) (← asmReg ra) (← asmImm 5 imm5)
  | .cmp ra rb => return .cmp (← asmReg ra) (← asmReg rb)
  | .and rd ra rb => return .and (← asmReg rd) (← asmReg ra) (← asmReg rb)
  | .or rd ra rb => return .or (← asmReg rd) (← asmReg ra) (← asmReg rb)
  | .xor rd ra rb => return .xor (← asmReg rd) (← asmReg ra) (← asmReg rb)
  | .not rd ra => return .not (← asmReg rd) (← asmReg ra)
  | .nand rd ra rb => return .nand (← asmReg rd) (← asmReg ra) (← asmReg rb)
  | .nor rd ra rb => return .nor (← asmReg rd) (← asmReg ra) (← asmReg rb)
  | .lsl rd ra imm4 => return .lsl (← asmReg rd) (← asmReg ra) (← asmImm 4 imm4)
  | .lsr rd ra imm4 => return .lsr (← asmReg rd) (← asmReg ra) (← asmImm 4 imm4)
  | .asr rd ra imm4 => return .asr (← asmReg rd) (← asmReg ra) (← asmImm 4 imm4)
  | .ldw rd ra ro => return .ldw (← asmReg rd) (← asmReg ra) (← asmReg ro)
  | .sdw rd ra ro => return .sdw (← asmReg rd) (← asmReg ra) (← asmReg ro)
  | .lui rd imm8 => return .lui (← asmReg rd) (← asmImm 8 imm8)
  | .lli rd imm8 => return .lli (← asmReg rd) (← asmImm 8 imm8)
  | .br label => return .br (← asmLabel p a label)
  | .bne label => return .bne (← asmLabel p a label)
  | .be label => return .be (← asmLabel p a label)
  | .blt label => return .blt (← asmLabel p a label)
  | .bge label => return .bge (← asmLabel p a label)
  | .bwl label => return .bwl (← asmLabel p a label)
  | .ret => some .ret
  | .abr ra => return .abr (← asmReg ra)
  | .push operand => return .push (← asmStackOperand operand)
  | .pop operand => return .pop (← asmStackOperand operand)

end Sys2Proof
end

