-- ==== Sys2Proof/Machine/State.lean ====
section
/-! DEFINITION. The machine's state as plain data: everything 10_state.md gives it (R20 to R32), the
set TEXT (20_memory.md R53) and the parameters of the run (00_scope.md R5). -/

namespace Sys2Proof.Machine

/-- The four status flags (10_state.md R25). -/
structure Flags where
  c : Bool
  v : Bool
  n : Bool
  z : Bool
  deriving DecidableEq, Repr

/-- A total map from word addresses to words (10_state.md R29), as the list of the words that differ
from `unlistedWord`, addresses strictly rising. The unit is the 16-bit word, the spec's smallest
addressable unit (20_memory.md R40, notes/assumptions/3.md). -/
abbrev Memory := List (Nat × Word)

/-- What an address that the list does not mention holds. The spec gives memory that the host did
not load no value (70_reset_and_hazards.md R203); DESIGN CHOICE, unsafe, notes/assumptions/4.md. -/
def unlistedWord : Word := 0x0000#16

/-- Why the machine has stopped: the content of the fault mark (10_state.md R31, 60_exceptions.md
R181). `a` is the address of the instruction. The meaning or the fetch that raises one writes the
mark and nothing else; `step` answers it from a marked state. All three are safe: the machine stops
where the hardware may go on. -/
inductive Fault where
  /-- Raised by the UNDEFINED opcodes (30_encoding.md R73). Safe. -/
  | undefinedInstruction (a w : Word)
  /-- Raised by fetch, LDW, SDW, PUSH and POP on an address with MEM_VALID false
  (20_memory.md R41 to R43). Safe. -/
  | memoryFault (a addr : Word)
  /-- Raised by SDW and PUSH on an address that holds program text (20_memory.md R43, R53). Safe. -/
  | textWriteRefused (a addr : Word)
  deriving DecidableEq, Repr

/-- Reasons to refuse an instruction. No meaning of this model refuses. -/
inductive Refusal where
  /-- Raised by an arm of `exec` whose instruction has no meaning yet; there is none. Safe. -/
  | notModelled (mnemonic : String)
  deriving DecidableEq, Repr

/-- The state of the machine. -/
structure State where
  /-- R0 to R7 (10_state.md R20). -/
  regs : Vector Word 8
  /-- PC, the address of the instruction being executed (10_state.md R22). -/
  pc : Word
  /-- LR (10_state.md R23). -/
  lr : Word
  /-- SP (10_state.md R24). -/
  sp : Word
  /-- c, v, n, z (10_state.md R25). -/
  flags : Flags
  /-- Mem, which LDW, SDW, PUSH and POP reach, and fetch under `unified` (20_memory.md R40, R41). -/
  mem : Memory
  /-- IMem, the program store of `harvard`, which no instruction reaches (10_state.md R29). -/
  imem : Memory
  /-- TEXT, the addresses that hold program text, strictly rising (20_memory.md R53). -/
  text : List Nat
  /-- The parameters of the run; no step changes them (00_scope.md R5, notes/assumptions/1.md). -/
  params : Params
  /-- The fault mark (10_state.md R31). -/
  faultMark : Option Fault
  deriving DecidableEq, Repr

/-- What one instruction, or one step, answers. -/
abbrev Result := Host.Outcome State Fault Refusal

/-- The machine after reset under parameters `p`, the host having loaded nothing: PC, SP and the
fault mark as 10_state.md R32 says. R0 to R7, LR, the flags and memory are free inputs there;
the values here are DESIGN CHOICE, unsafe, notes/assumptions/4.md and 5.md. -/
def State.resetWith (p : Params) : State where
  regs := #v[0, 0, 0, 0, 0, 0, 0, 0]
  pc := p.pcReset
  lr := 0
  sp := p.spReset
  flags := { c := false, v := false, n := false, z := false }
  mem := []
  imem := []
  text := []
  params := p
  faultMark := none

/-- The machine right after reset, every parameter at its default (70_reset_and_hazards.md R200). -/
def State.reset : State := State.resetWith Params.default

end Sys2Proof.Machine
end

