-- ==== Sys2Proof/Machine/Ops.lean ====
section
/-! DEFINITION. The named operations on registers, memory and the fault mark that every instruction
is written over: register access (00_scope.md R8), MemRead and MemWrite (20_memory.md R42, R43),
fetch (R41), `raise` (60_exceptions.md R181), and the host's loading of a run
(70_reset_and_hazards.md R203). -/

namespace Sys2Proof.Machine

/-! ## Registers -/

/-- `R[i]` (00_scope.md R8). -/
def State.reg (s : State) (i : Reg) : Word := s.regs[i.val]

/-- `R[i] <- v` (00_scope.md R8). -/
def State.setReg (s : State) (i : Reg) (v : Word) : State := { s with regs := s.regs.set i.val v }

/-- `PC <- t`. -/
def State.setPc (s : State) (t : Word) : State := { s with pc := t }

/-- `LR <- v`. -/
def State.setLr (s : State) (v : Word) : State := { s with lr := v }

/-- `SP <- v`. -/
def State.setSp (s : State) (v : Word) : State := { s with sp := v }

/-- Write all four flags. -/
def State.setFlags (s : State) (f : Flags) : State := { s with flags := f }

/-- `z <- b`, the other three flags kept. -/
def State.setZ (s : State) (b : Bool) : State := { s with flags := { s.flags with z := b } }

/-- `nxt`, the address of the next instruction in sequence (00_scope.md R8). -/
def State.nxt (s : State) : Word := s.pc + 1

/-- `PC <- nxt` (10_state.md R22). -/
def State.advance (s : State) : State := s.setPc s.nxt

/-! ## Memory -/

/-- The word at an address. -/
def Memory.read : Memory → Nat → Word
  | [], _ => unlistedWord
  | (b, w) :: rest, a => if a = b then w else Memory.read rest a

/-- Put a cell in front of the first cell with a greater address. -/
def Memory.insertCell (a : Nat) (v : Word) : Memory → Memory
  | [] => [(a, v)]
  | (b, w) :: rest =>
    if a < b then (a, v) :: (b, w) :: rest else (b, w) :: Memory.insertCell a v rest

/-- Store a word at one address. A word equal to `unlistedWord` is not listed, so that equal
memories are equal lists. -/
def Memory.write (m : Memory) (a : Nat) (v : Word) : Memory :=
  let others := m.filter (fun cell => cell.1 != a)
  if v = unlistedWord then others else Memory.insertCell a v others

/-- The canonical form: addresses in range and strictly rising, no cell that an absent cell would
stand for. -/
def Memory.wf : Memory → Bool
  | [] => true
  | (a, w) :: rest =>
    decide (a < 65536) && w != unlistedWord && rest.all (fun cell => decide (a < cell.1)) &&
      Memory.wf rest

/-- `MEM_VALID(addr)`: no unbacked block holds the address (20_memory.md R56). -/
def memValid (p : Params) (addr : Word) : Bool :=
  !p.unbacked.any (fun r => decide (r.first ≤ addr) && decide (addr ≤ r.last))

/-- The address holds program text (20_memory.md R53). -/
def State.isText (s : State) (addr : Word) : Bool := s.text.contains addr.toNat

/-- `MemRead(addr, 1)` (20_memory.md R42); the instruction is the one at PC. -/
def State.memRead (s : State) (addr : Word) : Except Fault Word :=
  if memValid s.params addr then .ok (s.mem.read addr.toNat) else .error (.memoryFault s.pc addr)

/-- `MemWrite(addr, 1, v)` (20_memory.md R43): MEM_VALID first, then TEXT (60_exceptions.md R182). -/
def State.memWrite (s : State) (addr v : Word) : Except Fault State :=
  if memValid s.params addr then
    if s.isText addr then .error (.textWriteRefused s.pc addr)
    else .ok { s with mem := s.mem.write addr.toNat v }
  else .error (.memoryFault s.pc addr)

/-! ## Faults -/

/-- `raise f`: write the fault mark and change nothing else (60_exceptions.md R181). This is all the
exception entry the spec has: no register saves anything and control goes nowhere (R185). -/
def State.raise (s : State) (f : Fault) : State := { s with faultMark := some f }

/-- The end of an instruction that makes one access: all its effects and `PC <- nxt`, or a raise
with none of them (60_exceptions.md R182). -/
def finishAccess (s : State) : Except Fault State → Result
  | .ok t => .next t.advance
  | .error f => .next (s.raise f)

/-! ## Fetch -/

/-- The word at PC in the memory that instructions are fetched from (20_memory.md R41). -/
def State.fetchedWord (s : State) : Word :=
  match s.params.memOrg with
  | .unified => s.mem.read s.pc.toNat
  | .harvard => s.imem.read s.pc.toNat

/-- The fetch address is backed: MEM_VALID under `unified`; under `harvard` IMem is a total map,
which this model does not bound to the loaded program (20_memory.md R41,
DESIGN CHOICE, notes/assumptions/8.md). -/
def State.fetchValid (s : State) : Bool :=
  match s.params.memOrg with
  | .unified => memValid s.params s.pc
  | .harvard => true

/-- Fetch and decode the instruction at PC, or the fault of an invalid fetch address
(20_memory.md R41, 60_exceptions.md R182). -/
def State.fetch (s : State) : Except Fault Instr :=
  if s.fetchValid then .ok (decode s.params s.fetchedWord) else .error (.memoryFault s.pc s.pc)

/-- The word `w` placed where the next fetch reads it. -/
def State.placeWord (s : State) (w : Word) : State :=
  match s.params.memOrg with
  | .unified => { s with mem := s.mem.write s.pc.toNat w }
  | .harvard => { s with imem := s.imem.write s.pc.toNat w }

/-! ## Loading by the host -/

/-- Store a list of words, each at its address, in order: of two words for one address the one listed
last stays (DESIGN CHOICE, unsafe, notes/assumptions/17.md). -/
def Memory.load (m : Memory) (words : List (Word × Word)) : Memory :=
  words.foldl (fun acc cell => acc.write cell.1.toNat cell.2) m

/-- Add an address to a strictly rising list of addresses. -/
def insertAddress (a : Nat) : List Nat → List Nat
  | [] => [a]
  | b :: rest =>
    if a < b then a :: b :: rest else if a = b then b :: rest else b :: insertAddress a rest

/-- The set of addresses that a program's words are loaded at. -/
def textOf (program : List (Word × Word)) : List Nat :=
  program.foldl (fun acc cell => insertAddress cell.1.toNat acc) []

/-- The host loads a run before reset is released: data words into Mem, the program into Mem
(`unified`) or IMem (`harvard`), and TEXT as exactly the program's addresses
(70_reset_and_hazards.md R203). Each word comes with its address. Where both lists name one address
of Mem, the program's word stays (DESIGN CHOICE, unsafe, notes/assumptions/17.md). -/
def State.load (s : State) (program data : List (Word × Word)) : State :=
  match s.params.memOrg with
  | .unified => { s with mem := (s.mem.load data).load program, text := textOf program }
  | .harvard => { s with mem := s.mem.load data, imem := s.imem.load program, text := textOf program }

/-- TEXT as a canonical set: addresses in range and strictly rising. -/
def textWf : List Nat → Bool
  | [] => true
  | a :: rest => decide (a < 65536) && rest.all (fun b => decide (a < b)) && textWf rest

/-- Every piece of the state that has a canonical form is in it. -/
def State.wf (s : State) : Bool := s.mem.wf && s.imem.wf && textWf s.text

end Sys2Proof.Machine
end

