-- ==== Sys2Proof/Machine/Flags.lean ====
section
/-! DEFINITION. The adder and the flags (40_data_manipulation.md R100, R101), and the shapes in which
an instruction ends: with a result and four flags, with a result and z, with a result alone. -/

namespace Sys2Proof.Machine

/-- What the adder gives: the 16-bit result and the four flag values (40_data_manipulation.md R100). -/
structure AluOutput where
  result : Word
  flags : Flags
  deriving DecidableEq, Repr

/-- `AddWithCarry(x, y, cin)`, formula by formula (40_data_manipulation.md R100). -/
def addWithCarry (x y : Word) (cin : Bool) : AluOutput :=
  let sum : BitVec 17 := x.setWidth 17 + y.setWidth 17 + (BitVec.ofBool cin).setWidth 17
  let result : Word := sum.setWidth 16
  { result := result
    flags :=
      { c := sum.getLsbD 16
        v := (x.getLsbD 15 == y.getLsbD 15) && (result.getLsbD 15 != x.getLsbD 15)
        n := result.getLsbD 15
        z := result == 0x0000#16 } }

/-- The c that a subtraction leaves, from the adder's carry out: `SUB_CARRY`
(40_data_manipulation.md R100, 93_implementation_defined.md U17). Under `borrow` it inverts the c
written and no c read (DEDUCED, notes/assumptions/16.md). -/
def carryAfterSub (sc : SubCarry) (carryOut : Bool) : Bool :=
  match sc with
  | .notBorrow => carryOut
  | .borrow => !carryOut

/-- `x - y - NOT cin` as `AddWithCarry(x, ~y, cin)` (40_data_manipulation.md R100), c left in the
sense of `SUB_CARRY`. -/
def subWithCarry (p : Params) (x y : Word) (cin : Bool) : AluOutput :=
  let out := addWithCarry x (~~~y) cin
  { out with flags := { out.flags with c := carryAfterSub p.subCarry out.flags.c } }

/-- `R[rd] <- r; c, v, n, z <- …; PC <- nxt`: the end of an arithmetic instruction. -/
def finishArith (s : State) (rd : Reg) (out : AluOutput) : Result :=
  .next ((s.setReg rd out.result).setFlags out.flags).advance

/-- `c, v, n, z <- …; PC <- nxt`, the result discarded: the end of CMP. -/
def finishCompare (s : State) (out : AluOutput) : Result := .next (s.setFlags out.flags).advance

/-- `R[rd] <- r; z <- (r == 0); PC <- nxt`: the end of a logic instruction
(40_data_manipulation.md R101). -/
def finishLogic (s : State) (rd : Reg) (r : Word) : Result :=
  .next ((s.setReg rd r).setZ (r == 0x0000#16)).advance

/-- `R[rd] <- r; PC <- nxt`, no flag written: the end of a shift, LUI or LLI. -/
def finishMove (s : State) (rd : Reg) (r : Word) : Result := .next (s.setReg rd r).advance

end Sys2Proof.Machine
end

