-- ==== Sys2Proof/Machine/Operands.lean ====
section
/-! DEFINITION. Operand forms: immediates (30_encoding.md R71), the effective address
(42_data_transfer.md R140), branch targets (43_control_transfer.md R150), and the stack operations'
operand and addresses (44_stack_operations.md R170 to R172). -/

namespace Sys2Proof.Machine

/-- The operand of an imm5: zero-extended, 0 to 31 (30_encoding.md R71). -/
def immOperand5 (imm5 : BitVec 5) : Word := imm5.setWidth 16

/-- The operand of an imm8 of ADDIB and SUBIB: zero-extended, 0 to 255 (30_encoding.md R71). -/
def immOperand8 (imm8 : BitVec 8) : Word := imm8.setWidth 16

/-- The displacement of a branch: sign-extended, -128 to +127 (30_encoding.md R71). -/
def displacement (imm8 : BitVec 8) : Word := imm8.signExtend 16

/-- The target of a relative branch (43_control_transfer.md R150). -/
def State.branchTarget (s : State) (imm8 : BitVec 8) : Word :=
  branchBaseAddr s.params s.pc + displacement imm8

/-- `ea = (R[ra] + R[ro]) mod 65536` (42_data_transfer.md R140). -/
def State.effectiveAddress (s : State) (ra ro : Reg) : Word := s.reg ra + s.reg ro

/-- The value PUSH stores: LR or a general register (44_stack_operations.md R171). -/
def State.readStackOperand (s : State) : StackOperand → Word
  | .reg ra => s.reg ra
  | .link => s.lr

/-- The place POP loads into: LR or a general register (44_stack_operations.md R172). -/
def State.writeStackOperand (s : State) (v : Word) : StackOperand → State
  | .reg ra => s.setReg ra v
  | .link => s.setLr v

/-- The address PUSH stores at: SP + 1 on a full stack, SP on an empty one
(44_stack_operations.md R170, `STACK_FULL`). -/
def State.pushAddress (s : State) : Word := if s.params.stackFull then s.sp + 1 else s.sp

/-- The address POP loads from: SP on a full stack, SP - 1 on an empty one
(44_stack_operations.md R170, `STACK_FULL`). -/
def State.popAddress (s : State) : Word := if s.params.stackFull then s.sp else s.sp - 1

end Sys2Proof.Machine
end

