-- ==== Sys2Proof/Machine/Arith.lean ====
section
/-! DEFINITION. Addition, negation, subtraction and comparison in format A
(40_data_manipulation.md R102 to R111). Every meaning reads its sources from the state before it
writes anything (10_state.md R21). -/

namespace Sys2Proof.Machine

/-- ADD (R102). -/
def execAdd (rd ra rb : Reg) (s : State) : Result :=
  finishArith s rd (addWithCarry (s.reg ra) (s.reg rb) false)

/-- ADDI (R103). -/
def execAddi (rd ra : Reg) (imm5 : BitVec 5) (s : State) : Result :=
  finishArith s rd (addWithCarry (s.reg ra) (immOperand5 imm5) false)

/-- ADC (R104). -/
def execAdc (rd ra rb : Reg) (s : State) : Result :=
  finishArith s rd (addWithCarry (s.reg ra) (s.reg rb) s.flags.c)

/-- ADCI (R105). -/
def execAdci (rd ra : Reg) (imm5 : BitVec 5) (s : State) : Result :=
  finishArith s rd (addWithCarry (s.reg ra) (immOperand5 imm5) s.flags.c)

/-- NEG, `0 - R[rd]` (R106). -/
def execNeg (rd : Reg) (s : State) : Result :=
  finishArith s rd (subWithCarry s.params 0x0000#16 (s.reg rd) true)

/-- SUB (R107). -/
def execSub (rd ra rb : Reg) (s : State) : Result :=
  finishArith s rd (subWithCarry s.params (s.reg ra) (s.reg rb) true)

/-- SUBI (R108). -/
def execSubi (rd ra : Reg) (imm5 : BitVec 5) (s : State) : Result :=
  finishArith s rd (subWithCarry s.params (s.reg ra) (immOperand5 imm5) true)

/-- SUC (R109). -/
def execSuc (rd ra rb : Reg) (s : State) : Result :=
  finishArith s rd (subWithCarry s.params (s.reg ra) (s.reg rb) s.flags.c)

/-- SUCI (R110). -/
def execSuci (rd ra : Reg) (imm5 : BitVec 5) (s : State) : Result :=
  finishArith s rd (subWithCarry s.params (s.reg ra) (immOperand5 imm5) s.flags.c)

/-- CMP, the flags of SUB and no register (R111). -/
def execCmp (ra rb : Reg) (s : State) : Result :=
  finishCompare s (subWithCarry s.params (s.reg ra) (s.reg rb) true)

end Sys2Proof.Machine
end

