-- ==== Sys2Proof/Machine/ByteImmediate.lean ====
section
/-! DEFINITION. The byte-immediate instructions of format B (41_byte_immediate.md R130 to R133). -/

namespace Sys2Proof.Machine

/-- ADDIB (R130). -/
def execAddib (rd : Reg) (imm8 : BitVec 8) (s : State) : Result :=
  finishArith s rd (addWithCarry (s.reg rd) (immOperand8 imm8) false)

/-- SUBIB (R131). -/
def execSubib (rd : Reg) (imm8 : BitVec 8) (s : State) : Result :=
  finishArith s rd (subWithCarry s.params (s.reg rd) (immOperand8 imm8) true)

/-- LUI: the low byte is kept (R132). -/
def execLui (rd : Reg) (imm8 : BitVec 8) (s : State) : Result :=
  finishMove s rd (imm8 ++ (s.reg rd).extractLsb' 0 8)

/-- LLI: the high byte is kept (R133). -/
def execLli (rd : Reg) (imm8 : BitVec 8) (s : State) : Result :=
  finishMove s rd ((s.reg rd).extractLsb' 8 8 ++ imm8)

end Sys2Proof.Machine
end

