-- ==== Sys2Proof/Machine/ControlTransfer.lean ====
section
/-! DEFINITION. The control transfers of format D (43_control_transfer.md R150 to R158). None writes
a flag, and none has a delay slot. -/

namespace Sys2Proof.Machine

/-- A relative branch: the target when the condition holds, else `nxt` (R150). -/
def branchIf (cond : Bool) (imm8 : BitVec 8) (s : State) : Result :=
  .next (s.setPc (if cond then s.branchTarget imm8 else s.nxt))

/-- BR (R151). -/
def execBr (imm8 : BitVec 8) (s : State) : Result := branchIf true imm8 s

/-- BNE: taken if z = 0 (R152). -/
def execBne (imm8 : BitVec 8) (s : State) : Result := branchIf (!s.flags.z) imm8 s

/-- BE: taken if z = 1 (R153). -/
def execBe (imm8 : BitVec 8) (s : State) : Result := branchIf s.flags.z imm8 s

/-- BLT: taken if n differs from v (R154, 90_conflicts.md C2). -/
def execBlt (imm8 : BitVec 8) (s : State) : Result := branchIf (s.flags.n != s.flags.v) imm8 s

/-- BGE: taken if n equals v (R155, 90_conflicts.md C2). -/
def execBge (imm8 : BitVec 8) (s : State) : Result := branchIf (s.flags.n == s.flags.v) imm8 s

/-- BWL: LR receives `nxt` (R156). -/
def execBwl (imm8 : BitVec 8) (s : State) : Result :=
  .next ((s.setLr s.nxt).setPc (s.branchTarget imm8))

/-- RET (R157). -/
def execRet (s : State) : Result := .next (s.setPc s.lr)

/-- ABR (R158). -/
def execAbr (ra : Reg) (s : State) : Result := .next (s.setPc (s.reg ra))

end Sys2Proof.Machine
end

