-- ==== Sys2Proof/Machine/DataTransfer.lean ====
section
/-! DEFINITION. LDW and SDW (42_data_transfer.md R140 to R142). -/

namespace Sys2Proof.Machine

/-- LDW: the address is computed from the old registers (R141). -/
def execLdw (rd ra ro : Reg) (s : State) : Result :=
  finishAccess s ((s.memRead (s.effectiveAddress ra ro)).map (fun v => s.setReg rd v))

/-- SDW: `rd` is the register stored (R142). -/
def execSdw (rd ra ro : Reg) (s : State) : Result :=
  finishAccess s (s.memWrite (s.effectiveAddress ra ro) (s.reg rd))

end Sys2Proof.Machine
end

