-- ==== Sys2Proof/Machine/Logic.lean ====
section
/-! DEFINITION. The logic instructions (40_data_manipulation.md R101, R112 to R117). -/

namespace Sys2Proof.Machine

/-- AND (R112). -/
def execAnd (rd ra rb : Reg) (s : State) : Result := finishLogic s rd (s.reg ra &&& s.reg rb)

/-- OR (R113). -/
def execOr (rd ra rb : Reg) (s : State) : Result := finishLogic s rd (s.reg ra ||| s.reg rb)

/-- XOR (R114). -/
def execXor (rd ra rb : Reg) (s : State) : Result := finishLogic s rd (s.reg ra ^^^ s.reg rb)

/-- NOT (R115). -/
def execNot (rd ra : Reg) (s : State) : Result := finishLogic s rd (~~~(s.reg ra))

/-- NAND (R116). -/
def execNand (rd ra rb : Reg) (s : State) : Result := finishLogic s rd (~~~(s.reg ra &&& s.reg rb))

/-- NOR (R117). -/
def execNor (rd ra rb : Reg) (s : State) : Result := finishLogic s rd (~~~(s.reg ra ||| s.reg rb))

end Sys2Proof.Machine
end

