-- ==== Sys2Proof/Machine/Shift.lean ====
section
/-! DEFINITION. The shifts; none writes a flag (40_data_manipulation.md R118 to R120). -/

namespace Sys2Proof.Machine

/-- LSL: zeros enter at bit 0 (R118). -/
def execLsl (rd ra : Reg) (imm4 : BitVec 4) (s : State) : Result :=
  finishMove s rd (s.reg ra <<< imm4.toNat)

/-- LSR: zeros enter at bit 15 (R119). -/
def execLsr (rd ra : Reg) (imm4 : BitVec 4) (s : State) : Result :=
  finishMove s rd (s.reg ra >>> imm4.toNat)

/-- ASR: copies of bit 15 enter at the top (R120, 90_conflicts.md C11). -/
def execAsr (rd ra : Reg) (imm4 : BitVec 4) (s : State) : Result :=
  finishMove s rd ((s.reg ra).sshiftRight imm4.toNat)

end Sys2Proof.Machine
end

