-- ==== Sys2Proof/Machine/Stack.lean ====
section
/-! DEFINITION. PUSH and POP (44_stack_operations.md R170 to R172). SP changes by one whether or not
the stack is full (`STACK_FULL` moves only the address of the access). -/

namespace Sys2Proof.Machine

/-- PUSH: the write is checked before SP changes (R171). -/
def execPush (operand : StackOperand) (s : State) : Result :=
  finishAccess s
    ((s.memWrite s.pushAddress (s.readStackOperand operand)).map (fun t => t.setSp (s.sp + 1)))

/-- POP: the read is checked before anything changes (R172). -/
def execPop (operand : StackOperand) (s : State) : Result :=
  finishAccess s
    ((s.memRead s.popAddress).map
      (fun v => (s.writeStackOperand v operand).setSp (s.sp - 1)))

end Sys2Proof.Machine
end

