-- ==== Sys2Proof/Machine/Undefined.lean ====
section
/-! DEFINITION. The six opcodes without an instruction (30_encoding.md R73, 90_conflicts.md C1, C10).
Executing one is `raise UndefinedInstruction(a, w)` (60_exceptions.md R181): the fault mark is
written, nothing else changes, and no further step is taken. -/

namespace Sys2Proof.Machine

/-- `raise UndefinedInstruction(a, w)` (60_exceptions.md R181). -/
def raiseUndefined (w : Word) (s : State) : Result :=
  .next (s.raise (.undefinedInstruction s.pc w))

/-- Opcode 00000, named UNDEFINED by the source's note (R73). -/
def execUndefined00000 (w : Word) (s : State) : Result := raiseUndefined w s

/-- Opcode 01110, assigned to no row of the table (R73). -/
def execUndefined01110 (w : Word) (s : State) : Result := raiseUndefined w s

/-- Opcode 01111, assigned to no row of the table (R73). -/
def execUndefined01111 (w : Word) (s : State) : Result := raiseUndefined w s

/-- Opcode 10110, assigned to no row of the table (R73). -/
def execUndefined10110 (w : Word) (s : State) : Result := raiseUndefined w s

/-- Opcode 10111, assigned to no row of the table (R73). -/
def execUndefined10111 (w : Word) (s : State) : Result := raiseUndefined w s

/-- Opcode 11110, named UNDEFINED by the source's note (R73). -/
def execUndefined11110 (w : Word) (s : State) : Result := raiseUndefined w s

end Sys2Proof.Machine
end

