-- ==== Sys2Proof/Machine/Step.lean ====
section
/-! DEFINITION. One step: a marked machine takes none; otherwise fetch, decode, execute
(60_exceptions.md R181, R182). -/

namespace Sys2Proof.Machine

/-- One step of the machine. Checks come in the order of 60_exceptions.md R182: the fetch address,
then the opcode (the UNDEFINED rows of `exec`), then the access of the instruction. -/
def step (s : State) : Host.Outcome State Fault Refusal :=
  match s.faultMark with
  | some f => .fault f
  | none =>
    match s.fetch with
    | .error f => .next (s.raise f)
    | .ok i => exec i s

/-- `s` with the instruction whose bits are `w` (bits above `nbits` zero) at the address the next
step fetches from, in the memory it fetches from: the host's loading of one word
(70_reset_and_hazards.md R203, notes/assumptions/9.md). -/
def State.withFetchWord (s : State) (nbits w : Nat) : State :=
  s.placeWord (BitVec.ofNat 16 (w % 2 ^ nbits))

end Sys2Proof.Machine
end

