-- ==== Sys2Proof/Safety.lean ====
section
/-! DEFINITION. The terms claims are stated in: what a final state is (60_exceptions.md R193), what
reset fixes (10_state.md R32), the spec's tables of what each instruction reads and writes
(10_state.md R21, R23, R24, R26), its opcode map (30_encoding.md R75), what a line of
assembly stands for (R76), and the exact integer reading
of sums and differences that the flags report on (40_data_manipulation.md R100). No meaning uses
any of them. -/

namespace Sys2Proof

/-! ## The opcode map -/

/-- The opcode of each row (30_encoding.md R73, R75). -/
def Instr.opcode : Instr → BitVec 5
  | .add _ _ _ => 0b00100
  | .addi _ _ _ => 0b00101
  | .addib _ _ => 0b11000
  | .adc _ _ _ => 0b00110
  | .adci _ _ _ => 0b00111
  | .neg _ => 0b01000
  | .sub _ _ _ => 0b01001
  | .subi _ _ _ => 0b01010
  | .subib _ _ => 0b11001
  | .suc _ _ _ => 0b01011
  | .suci _ _ _ => 0b01100
  | .cmp _ _ => 0b01101
  | .and _ _ _ => 0b10000
  | .or _ _ _ => 0b10001
  | .xor _ _ _ => 0b10010
  | .not _ _ => 0b10011
  | .nand _ _ _ => 0b10100
  | .nor _ _ _ => 0b10101
  | .lsl _ _ _ => 0b00001
  | .lsr _ _ _ => 0b00010
  | .asr _ _ _ => 0b00011
  | .ldw _ _ _ => 0b11101
  | .sdw _ _ _ => 0b11101
  | .lui _ _ => 0b11010
  | .lli _ _ => 0b11011
  | .br _ => 0b11111
  | .bne _ => 0b11111
  | .be _ => 0b11111
  | .blt _ => 0b11111
  | .bge _ => 0b11111
  | .bwl _ => 0b11111
  | .ret => 0b11111
  | .abr _ => 0b11111
  | .push _ => 0b11100
  | .pop _ => 0b11100
  | .undefined00000 _ => 0b00000
  | .undefined01110 _ => 0b01110
  | .undefined01111 _ => 0b01111
  | .undefined10110 _ => 0b10110
  | .undefined10111 _ => 0b10111
  | .undefined11110 _ => 0b11110

/-- The mnemonic of each row, as opcode_table.json spells it. -/
def Instr.mnemonic : Instr → String
  | .add _ _ _ => "ADD"
  | .addi _ _ _ => "ADDI"
  | .addib _ _ => "ADDIB"
  | .adc _ _ _ => "ADC"
  | .adci _ _ _ => "ADCI"
  | .neg _ => "NEG"
  | .sub _ _ _ => "SUB"
  | .subi _ _ _ => "SUBI"
  | .subib _ _ => "SUBIB"
  | .suc _ _ _ => "SUC"
  | .suci _ _ _ => "SUCI"
  | .cmp _ _ => "CMP"
  | .and _ _ _ => "AND"
  | .or _ _ _ => "OR"
  | .xor _ _ _ => "XOR"
  | .not _ _ => "NOT"
  | .nand _ _ _ => "NAND"
  | .nor _ _ _ => "NOR"
  | .lsl _ _ _ => "LSL"
  | .lsr _ _ _ => "LSR"
  | .asr _ _ _ => "ASR"
  | .ldw _ _ _ => "LDW"
  | .sdw _ _ _ => "SDW"
  | .lui _ _ => "LUI"
  | .lli _ _ => "LLI"
  | .br _ => "BR"
  | .bne _ => "BNE"
  | .be _ => "BE"
  | .blt _ => "BLT"
  | .bge _ => "BGE"
  | .bwl _ => "BWL"
  | .ret => "RET"
  | .abr _ => "ABR"
  | .push _ => "PUSH"
  | .pop _ => "POP"
  | .undefined00000 _ => "UNDEFINED_00000"
  | .undefined01110 _ => "UNDEFINED_01110"
  | .undefined01111 _ => "UNDEFINED_01111"
  | .undefined10110 _ => "UNDEFINED_10110"
  | .undefined10111 _ => "UNDEFINED_10111"
  | .undefined11110 _ => "UNDEFINED_11110"

/-- The instruction is one of the six UNDEFINED rows (30_encoding.md R73). -/
def Instr.isUndefined : Instr → Bool
  | .add _ _ _ => false
  | .addi _ _ _ => false
  | .addib _ _ => false
  | .adc _ _ _ => false
  | .adci _ _ _ => false
  | .neg _ => false
  | .sub _ _ _ => false
  | .subi _ _ _ => false
  | .subib _ _ => false
  | .suc _ _ _ => false
  | .suci _ _ _ => false
  | .cmp _ _ => false
  | .and _ _ _ => false
  | .or _ _ _ => false
  | .xor _ _ _ => false
  | .not _ _ => false
  | .nand _ _ _ => false
  | .nor _ _ _ => false
  | .lsl _ _ _ => false
  | .lsr _ _ _ => false
  | .asr _ _ _ => false
  | .ldw _ _ _ => false
  | .sdw _ _ _ => false
  | .lui _ _ => false
  | .lli _ _ => false
  | .br _ => false
  | .bne _ => false
  | .be _ => false
  | .blt _ => false
  | .bge _ => false
  | .bwl _ => false
  | .ret => false
  | .abr _ => false
  | .push _ => false
  | .pop _ => false
  | .undefined00000 _ => true
  | .undefined01110 _ => true
  | .undefined01111 _ => true
  | .undefined10110 _ => true
  | .undefined10111 _ => true
  | .undefined11110 _ => true

/-- The bits of a word that its instruction uses: all but the X bits and the operand fields that the
instruction's syntax does not name (30_encoding.md R62 to R69, R72, R81). -/
def usedBits (p : Params) : Instr → Word
  | .add _ _ _ => 0xF9FF
  | .addi _ _ _ => 0xFFFF
  | .addib _ _ => 0xFFFF
  | .adc _ _ _ => 0xF9FF
  | .adci _ _ _ => 0xFFFF
  | .neg _ => 0xF807
  | .sub _ _ _ => 0xF9FF
  | .subi _ _ _ => 0xFFFF
  | .subib _ _ => 0xFFFF
  | .suc _ _ _ => 0xF9FF
  | .suci _ _ _ => 0xFFFF
  | .cmp _ _ => 0xF9F8
  | .and _ _ _ => 0xF9FF
  | .or _ _ _ => 0xF9FF
  | .xor _ _ _ => 0xF9FF
  | .not _ _ => 0xF83F
  | .nand _ _ _ => 0xF9FF
  | .nor _ _ _ => 0xF9FF
  | .lsl _ _ _ => match p.imm4Pos with | .low => 0xFBFF | .high => 0xFFBF
  | .lsr _ _ _ => match p.imm4Pos with | .low => 0xFBFF | .high => 0xFFBF
  | .asr _ _ _ => match p.imm4Pos with | .low => 0xFBFF | .high => 0xFFBF
  | .ldw _ _ _ => 0xFBFF
  | .sdw _ _ _ => 0xFBFF
  | .lui _ _ => 0xFFFF
  | .lli _ _ => 0xFFFF
  | .br _ => 0xFFFF
  | .bne _ => 0xFFFF
  | .be _ => 0xFFFF
  | .blt _ => 0xFFFF
  | .bge _ => 0xFFFF
  | .bwl _ => 0xFFFF
  | .ret => 0xF807
  | .abr _ => 0xF83F
  | .push (.reg _) => 0xFC07 ||| (0x0008 <<< p.stackDirBit.place.val)
  | .push .link => 0xFC00 ||| (0x0008 <<< p.stackDirBit.place.val)
  | .pop (.reg _) => 0xFC07 ||| (0x0008 <<< p.stackDirBit.place.val)
  | .pop .link => 0xFC00 ||| (0x0008 <<< p.stackDirBit.place.val)
  | .undefined00000 _ => 0xFFFF
  | .undefined01110 _ => 0xFFFF
  | .undefined01111 _ => 0xFFFF
  | .undefined10110 _ => 0xFFFF
  | .undefined10111 _ => 0xFFFF
  | .undefined11110 _ => 0xFFFF

/-! ## What each instruction reads and writes -/

/-- The general register an instruction writes (the "writes" column of 10_state.md R21). -/
def Instr.regWritten : Instr → Option Reg
  | .add rd _ _ => some rd
  | .addi rd _ _ => some rd
  | .addib rd _ => some rd
  | .adc rd _ _ => some rd
  | .adci rd _ _ => some rd
  | .neg rd => some rd
  | .sub rd _ _ => some rd
  | .subi rd _ _ => some rd
  | .subib rd _ => some rd
  | .suc rd _ _ => some rd
  | .suci rd _ _ => some rd
  | .cmp _ _ => none
  | .and rd _ _ => some rd
  | .or rd _ _ => some rd
  | .xor rd _ _ => some rd
  | .not rd _ => some rd
  | .nand rd _ _ => some rd
  | .nor rd _ _ => some rd
  | .lsl rd _ _ => some rd
  | .lsr rd _ _ => some rd
  | .asr rd _ _ => some rd
  | .ldw rd _ _ => some rd
  | .sdw _ _ _ => none
  | .lui rd _ => some rd
  | .lli rd _ => some rd
  | .br _ => none
  | .bne _ => none
  | .be _ => none
  | .blt _ => none
  | .bge _ => none
  | .bwl _ => none
  | .ret => none
  | .abr _ => none
  | .push _ => none
  | .pop (.reg ra) => some ra
  | .pop .link => none
  | .undefined00000 _ => none
  | .undefined01110 _ => none
  | .undefined01111 _ => none
  | .undefined10110 _ => none
  | .undefined10111 _ => none
  | .undefined11110 _ => none

/-- The general registers an instruction reads (the "reads" column of 10_state.md R21). -/
def Instr.regsRead : Instr → List Reg
  | .add _ ra rb => [ra, rb]
  | .addi _ ra _ => [ra]
  | .addib rd _ => [rd]
  | .adc _ ra rb => [ra, rb]
  | .adci _ ra _ => [ra]
  | .neg rd => [rd]
  | .sub _ ra rb => [ra, rb]
  | .subi _ ra _ => [ra]
  | .subib rd _ => [rd]
  | .suc _ ra rb => [ra, rb]
  | .suci _ ra _ => [ra]
  | .cmp ra rb => [ra, rb]
  | .and _ ra rb => [ra, rb]
  | .or _ ra rb => [ra, rb]
  | .xor _ ra rb => [ra, rb]
  | .not _ ra => [ra]
  | .nand _ ra rb => [ra, rb]
  | .nor _ ra rb => [ra, rb]
  | .lsl _ ra _ => [ra]
  | .lsr _ ra _ => [ra]
  | .asr _ ra _ => [ra]
  | .ldw _ ra ro => [ra, ro]
  | .sdw rd ra ro => [ra, ro, rd]
  | .lui rd _ => [rd]
  | .lli rd _ => [rd]
  | .br _ => []
  | .bne _ => []
  | .be _ => []
  | .blt _ => []
  | .bge _ => []
  | .bwl _ => []
  | .ret => []
  | .abr ra => [ra]
  | .push (.reg ra) => [ra]
  | .push .link => []
  | .pop _ => []
  | .undefined00000 _ => []
  | .undefined01110 _ => []
  | .undefined01111 _ => []
  | .undefined10110 _ => []
  | .undefined10111 _ => []
  | .undefined11110 _ => []

/-- Which flags an instruction writes (10_state.md R26). -/
inductive FlagsWritten where
  | all
  | zOnly
  | none
  deriving DecidableEq, Repr

/-- The "writes" column of 10_state.md R26. -/
def Instr.flagsWritten : Instr → FlagsWritten
  | .add _ _ _ => .all
  | .addi _ _ _ => .all
  | .addib _ _ => .all
  | .adc _ _ _ => .all
  | .adci _ _ _ => .all
  | .neg _ => .all
  | .sub _ _ _ => .all
  | .subi _ _ _ => .all
  | .subib _ _ => .all
  | .suc _ _ _ => .all
  | .suci _ _ _ => .all
  | .cmp _ _ => .all
  | .and _ _ _ => .zOnly
  | .or _ _ _ => .zOnly
  | .xor _ _ _ => .zOnly
  | .not _ _ => .zOnly
  | .nand _ _ _ => .zOnly
  | .nor _ _ _ => .zOnly
  | .lsl _ _ _ => .none
  | .lsr _ _ _ => .none
  | .asr _ _ _ => .none
  | .ldw _ _ _ => .none
  | .sdw _ _ _ => .none
  | .lui _ _ => .none
  | .lli _ _ => .none
  | .br _ => .none
  | .bne _ => .none
  | .be _ => .none
  | .blt _ => .none
  | .bge _ => .none
  | .bwl _ => .none
  | .ret => .none
  | .abr _ => .none
  | .push _ => .none
  | .pop _ => .none
  | .undefined00000 _ => .none
  | .undefined01110 _ => .none
  | .undefined01111 _ => .none
  | .undefined10110 _ => .none
  | .undefined10111 _ => .none
  | .undefined11110 _ => .none

/-- The instruction writes LR: BWL, and POP with L = 1 (10_state.md R23). -/
def Instr.writesLr : Instr → Bool
  | .add _ _ _ => false
  | .addi _ _ _ => false
  | .addib _ _ => false
  | .adc _ _ _ => false
  | .adci _ _ _ => false
  | .neg _ => false
  | .sub _ _ _ => false
  | .subi _ _ _ => false
  | .subib _ _ => false
  | .suc _ _ _ => false
  | .suci _ _ _ => false
  | .cmp _ _ => false
  | .and _ _ _ => false
  | .or _ _ _ => false
  | .xor _ _ _ => false
  | .not _ _ => false
  | .nand _ _ _ => false
  | .nor _ _ _ => false
  | .lsl _ _ _ => false
  | .lsr _ _ _ => false
  | .asr _ _ _ => false
  | .ldw _ _ _ => false
  | .sdw _ _ _ => false
  | .lui _ _ => false
  | .lli _ _ => false
  | .br _ => false
  | .bne _ => false
  | .be _ => false
  | .blt _ => false
  | .bge _ => false
  | .bwl _ => true
  | .ret => false
  | .abr _ => false
  | .push _ => false
  | .pop (.reg _) => false
  | .pop .link => true
  | .undefined00000 _ => false
  | .undefined01110 _ => false
  | .undefined01111 _ => false
  | .undefined10110 _ => false
  | .undefined10111 _ => false
  | .undefined11110 _ => false

/-- The instruction writes SP: PUSH and POP (10_state.md R24). -/
def Instr.writesSp : Instr → Bool
  | .add _ _ _ => false
  | .addi _ _ _ => false
  | .addib _ _ => false
  | .adc _ _ _ => false
  | .adci _ _ _ => false
  | .neg _ => false
  | .sub _ _ _ => false
  | .subi _ _ _ => false
  | .subib _ _ => false
  | .suc _ _ _ => false
  | .suci _ _ _ => false
  | .cmp _ _ => false
  | .and _ _ _ => false
  | .or _ _ _ => false
  | .xor _ _ _ => false
  | .not _ _ => false
  | .nand _ _ _ => false
  | .nor _ _ _ => false
  | .lsl _ _ _ => false
  | .lsr _ _ _ => false
  | .asr _ _ _ => false
  | .ldw _ _ _ => false
  | .sdw _ _ _ => false
  | .lui _ _ => false
  | .lli _ _ => false
  | .br _ => false
  | .bne _ => false
  | .be _ => false
  | .blt _ => false
  | .bge _ => false
  | .bwl _ => false
  | .ret => false
  | .abr _ => false
  | .push _ => true
  | .pop _ => true
  | .undefined00000 _ => false
  | .undefined01110 _ => false
  | .undefined01111 _ => false
  | .undefined10110 _ => false
  | .undefined10111 _ => false
  | .undefined11110 _ => false

/-- The instruction sets PC to something other than `nxt` when it completes
(43_control_transfer.md R150 to R158). -/
def Instr.isControlTransfer : Instr → Bool
  | .add _ _ _ => false
  | .addi _ _ _ => false
  | .addib _ _ => false
  | .adc _ _ _ => false
  | .adci _ _ _ => false
  | .neg _ => false
  | .sub _ _ _ => false
  | .subi _ _ _ => false
  | .subib _ _ => false
  | .suc _ _ _ => false
  | .suci _ _ _ => false
  | .cmp _ _ => false
  | .and _ _ _ => false
  | .or _ _ _ => false
  | .xor _ _ _ => false
  | .not _ _ => false
  | .nand _ _ _ => false
  | .nor _ _ _ => false
  | .lsl _ _ _ => false
  | .lsr _ _ _ => false
  | .asr _ _ _ => false
  | .ldw _ _ _ => false
  | .sdw _ _ _ => false
  | .lui _ _ => false
  | .lli _ _ => false
  | .br _ => true
  | .bne _ => true
  | .be _ => true
  | .blt _ => true
  | .bge _ => true
  | .bwl _ => true
  | .ret => true
  | .abr _ => true
  | .push _ => false
  | .pop _ => false
  | .undefined00000 _ => false
  | .undefined01110 _ => false
  | .undefined01111 _ => false
  | .undefined10110 _ => false
  | .undefined10111 _ => false
  | .undefined11110 _ => false

namespace Machine

/-- The address an instruction stores to, computed as its meaning computes it
(42_data_transfer.md R142, 44_stack_operations.md R171). -/
def storesAt (s : State) : Instr → Option Word
  | .add _ _ _ => none
  | .addi _ _ _ => none
  | .addib _ _ => none
  | .adc _ _ _ => none
  | .adci _ _ _ => none
  | .neg _ => none
  | .sub _ _ _ => none
  | .subi _ _ _ => none
  | .subib _ _ => none
  | .suc _ _ _ => none
  | .suci _ _ _ => none
  | .cmp _ _ => none
  | .and _ _ _ => none
  | .or _ _ _ => none
  | .xor _ _ _ => none
  | .not _ _ => none
  | .nand _ _ _ => none
  | .nor _ _ _ => none
  | .lsl _ _ _ => none
  | .lsr _ _ _ => none
  | .asr _ _ _ => none
  | .ldw _ _ _ => none
  | .sdw _ ra ro => some (s.effectiveAddress ra ro)
  | .lui _ _ => none
  | .lli _ _ => none
  | .br _ => none
  | .bne _ => none
  | .be _ => none
  | .blt _ => none
  | .bge _ => none
  | .bwl _ => none
  | .ret => none
  | .abr _ => none
  | .push _ => some s.pushAddress
  | .pop _ => none
  | .undefined00000 _ => none
  | .undefined01110 _ => none
  | .undefined01111 _ => none
  | .undefined10110 _ => none
  | .undefined10111 _ => none
  | .undefined11110 _ => none

/-- The address an instruction loads from, computed as its meaning computes it
(42_data_transfer.md R141, 44_stack_operations.md R172). -/
def loadsFrom (s : State) : Instr → Option Word
  | .add _ _ _ => none
  | .addi _ _ _ => none
  | .addib _ _ => none
  | .adc _ _ _ => none
  | .adci _ _ _ => none
  | .neg _ => none
  | .sub _ _ _ => none
  | .subi _ _ _ => none
  | .subib _ _ => none
  | .suc _ _ _ => none
  | .suci _ _ _ => none
  | .cmp _ _ => none
  | .and _ _ _ => none
  | .or _ _ _ => none
  | .xor _ _ _ => none
  | .not _ _ => none
  | .nand _ _ _ => none
  | .nor _ _ _ => none
  | .lsl _ _ _ => none
  | .lsr _ _ _ => none
  | .asr _ _ _ => none
  | .ldw _ ra ro => some (s.effectiveAddress ra ro)
  | .sdw _ _ _ => none
  | .lui _ _ => none
  | .lli _ _ => none
  | .br _ => none
  | .bne _ => none
  | .be _ => none
  | .blt _ => none
  | .bge _ => none
  | .bwl _ => none
  | .ret => none
  | .abr _ => none
  | .push _ => none
  | .pop _ => some s.popAddress
  | .undefined00000 _ => none
  | .undefined01110 _ => none
  | .undefined01111 _ => none
  | .undefined10110 _ => none
  | .undefined10111 _ => none
  | .undefined11110 _ => none

/-! ## Runs -/

/-- What reset fixes, whatever the free inputs (R0 to R7, LR, flags, memory) hold
(10_state.md R32, R33). -/
def State.justReset (s : State) : Bool :=
  s.pc == s.params.pcReset && s.sp == s.params.spReset && s.faultMark == none

/-- The end of a run: PC addresses a BR to itself and no fault is recorded (60_exceptions.md R193).
A faulted state is never final (R181). -/
def State.atEnd (s : State) : Bool :=
  s.faultMark == none && s.fetchValid &&
    match decode s.params s.fetchedWord with
    | .br imm8 => s.branchTarget imm8 == s.pc
    | _ => false

/-- The same state under the other memory organisation (20_memory.md R41). -/
def State.withOrg (s : State) (org : MemOrg) : State :=
  { s with params := { s.params with memOrg := org } }

/-! ## Exact sums and differences -/

/-- `x + y + cin` as a natural number. -/
def exactSum (x y : Word) (cin : Bool) : Nat := x.toNat + y.toNat + cin.toNat

/-- `x - y - NOT cin` as an integer, operands read as unsigned. -/
def exactDifference (x y : Word) (cin : Bool) : Int :=
  (x.toNat : Int) - y.toNat - (!cin).toNat

/-- A signed value that 16 bits cannot hold (40_data_manipulation.md R100). -/
def outsideSigned (k : Int) : Bool := decide (k < -32768) || decide (32767 < k)

/-- The flags that an addition reports, read off the exact sums (40_data_manipulation.md R100). -/
def sumFlags (x y : Word) (cin : Bool) : Flags where
  c := decide (65536 ≤ exactSum x y cin)
  v := outsideSigned (x.toInt + y.toInt + cin.toNat)
  n := decide (32768 ≤ exactSum x y cin % 65536)
  z := decide (exactSum x y cin % 65536 = 0)

/-- The flags that a subtraction reports, read off the exact differences: c is NOT borrow, or borrow
under the other `SUB_CARRY` (40_data_manipulation.md R100). -/
def differenceFlags (sc : SubCarry) (x y : Word) (cin : Bool) : Flags where
  c := match sc with
    | .notBorrow => decide (0 ≤ exactDifference x y cin)
    | .borrow => decide (exactDifference x y cin < 0)
  v := outsideSigned (x.toInt - y.toInt - (!cin).toNat)
  n := decide (32768 ≤ exactDifference x y cin % 65536)
  z := decide (exactDifference x y cin % 65536 = 0)

/-! ## Next states -/

/-- `s` after an instruction that writes `v` to `R[rd]` and `f` to the flags, PC at `nxt`. -/
def State.afterResult (s : State) (rd : Reg) (v : Word) (f : Flags) : State :=
  { s with regs := s.regs.set rd.val v, flags := f, pc := s.pc + 1 }

/-- The exact target of a relative branch at `a`, before it is reduced modulo 65536: the address of
the branch, plus 1 unless `BRANCH_BASE` says otherwise, plus the signed displacement
(43_control_transfer.md R150). -/
def exactTarget (p : Params) (a : Word) (imm8 : BitVec 8) : Int :=
  match p.branchBase with
  | .afterBranch => (a.toNat : Int) + 1 + imm8.toInt
  | .atBranch => (a.toNat : Int) + imm8.toInt

/-- `s` branching to the exact target of `imm8` if the condition holds, else to `nxt`
(43_control_transfer.md R150). -/
def State.afterBranch (s : State) (taken : Bool) (imm8 : BitVec 8) : State :=
  { s with pc := if taken then BitVec.ofInt 16 (exactTarget s.params s.pc imm8) else s.pc + 1 }

/-- `m` holds `v` at `addr` and what `old` holds at every other address. -/
def storedWord (old m : Memory) (addr v : Word) : Prop :=
  ∀ b : Word, m.read b.toNat = if b = addr then v else old.read b.toNat

end Machine

/-! ## Lines of assembly -/

/-- A written register number names a register. -/
def namesReg (n : Nat) (r : Reg) : Prop := r.val = n

/-- A written number is the value of an unsigned field. -/
def namesImm {k : Nat} (n : Int) (b : BitVec k) : Prop := (b.toNat : Int) = n

/-- A label at address `label` is the target of the branch at `a` with this imm8
(30_encoding.md R76). -/
def namesLabel (p : Params) (a label : Word) (imm8 : BitVec 8) : Prop :=
  BitVec.ofInt 16 (Machine.exactTarget p a imm8) = label

/-- A written stack operand: `Rn`, or `RL` for the link register (30_encoding.md R76). -/
def namesStackOperand : AsmStackOperand → StackOperand → Prop
  | .reg n, .reg r => namesReg n r
  | .reg _, .link => False
  | .rl, .reg _ => False
  | .rl, .link => True

/-- `i` has three registers as written. -/
def ofThreeRegs (f : Reg → Reg → Reg → Instr) (x y z : Nat) (i : Instr) : Prop :=
  ∃ rx ry rz, namesReg x rx ∧ namesReg y ry ∧ namesReg z rz ∧ i = f rx ry rz

/-- `i` has two registers as written. -/
def ofTwoRegs (f : Reg → Reg → Instr) (x y : Nat) (i : Instr) : Prop :=
  ∃ rx ry, namesReg x rx ∧ namesReg y ry ∧ i = f rx ry

/-- `i` has one register as written. -/
def ofOneReg (f : Reg → Instr) (x : Nat) (i : Instr) : Prop := ∃ rx, namesReg x rx ∧ i = f rx

/-- `i` has two registers and a `k`-bit immediate as written. -/
def ofTwoRegsImm {k : Nat} (f : Reg → Reg → BitVec k → Instr) (x y : Nat) (n : Int)
    (i : Instr) : Prop :=
  ∃ rx ry b, namesReg x rx ∧ namesReg y ry ∧ namesImm n b ∧ i = f rx ry b

/-- `i` has one register and a `k`-bit immediate as written. -/
def ofOneRegImm {k : Nat} (f : Reg → BitVec k → Instr) (x : Nat) (n : Int) (i : Instr) : Prop :=
  ∃ rx b, namesReg x rx ∧ namesImm n b ∧ i = f rx b

/-- `i` is a branch from `a` to the label. -/
def ofLabel (f : BitVec 8 → Instr) (p : Params) (a label : Word) (i : Instr) : Prop :=
  ∃ imm8, namesLabel p a label imm8 ∧ i = f imm8

/-- `i` is the instruction that a line at address `a` stands for, with the operand values written:
the syntax column, one line for each mnemonic (30_encoding.md R76). A line with an operand out of
range stands for no instruction (R78). -/
def AsmInstr.standsFor (p : Params) (a : Word) (i : Instr) : AsmInstr → Prop
  | .add rd ra rb => ofThreeRegs .add rd ra rb i
  | .addi rd ra imm5 => ofTwoRegsImm .addi rd ra imm5 i
  | .addib rd imm8 => ofOneRegImm .addib rd imm8 i
  | .adc rd ra rb => ofThreeRegs .adc rd ra rb i
  | .adci rd ra imm5 => ofTwoRegsImm .adci rd ra imm5 i
  | .neg rd => ofOneReg .neg rd i
  | .sub rd ra rb => ofThreeRegs .sub rd ra rb i
  | .subi rd ra imm5 => ofTwoRegsImm .subi rd ra imm5 i
  | .subib rd imm8 => ofOneRegImm .subib rd imm8 i
  | .suc rd ra rb => ofThreeRegs .suc rd ra rb i
  | .suci rd ra imm5 => ofTwoRegsImm .suci rd ra imm5 i
  | .cmp ra rb => ofTwoRegs .cmp ra rb i
  | .and rd ra rb => ofThreeRegs .and rd ra rb i
  | .or rd ra rb => ofThreeRegs .or rd ra rb i
  | .xor rd ra rb => ofThreeRegs .xor rd ra rb i
  | .not rd ra => ofTwoRegs .not rd ra i
  | .nand rd ra rb => ofThreeRegs .nand rd ra rb i
  | .nor rd ra rb => ofThreeRegs .nor rd ra rb i
  | .lsl rd ra imm4 => ofTwoRegsImm .lsl rd ra imm4 i
  | .lsr rd ra imm4 => ofTwoRegsImm .lsr rd ra imm4 i
  | .asr rd ra imm4 => ofTwoRegsImm .asr rd ra imm4 i
  | .ldw rd ra ro => ofThreeRegs .ldw rd ra ro i
  | .sdw rd ra ro => ofThreeRegs .sdw rd ra ro i
  | .lui rd imm8 => ofOneRegImm .lui rd imm8 i
  | .lli rd imm8 => ofOneRegImm .lli rd imm8 i
  | .br label => ofLabel .br p a label i
  | .bne label => ofLabel .bne p a label i
  | .be label => ofLabel .be p a label i
  | .blt label => ofLabel .blt p a label i
  | .bge label => ofLabel .bge p a label i
  | .bwl label => ofLabel .bwl p a label i
  | .ret => i = .ret
  | .abr ra => ofOneReg .abr ra i
  | .push operand => ∃ o, namesStackOperand operand o ∧ i = .push o
  | .pop operand => ∃ o, namesStackOperand operand o ∧ i = .pop o

end Sys2Proof
end

