-- ==== Sys2Proof/Certificates/Slice0/Obligations.lean ====
section
/-! DEFINITION. The statements for the provers, from the spec's numbered rules. A statement says "the
spec's decision D<n>" where it rests on a choice that the spec marks as its own
(92_eei_decisions.md); "log <n>" is notes/assumptions/<n>.md. Every statement holds for every value
of the parameters of 00_scope.md R5, which a state carries (log 1). -/

open Sys2Proof Sys2Proof.Machine

/-! ## Encoding and decoding -/

/-- 95_test_vectors.md T11 law 2; 30_encoding.md R70, R72, R81 (decisions D9, D10, D12): no field of
a well-formed instruction is lost in its word, whatever the encoding parameters. -/
def Obligations.DecodeOfEncodeIsIdentity : Prop :=
  ∀ (p : Params) (i : Instr), i.wellFormed = true → decode p (encode p i) = i

/-- 95_test_vectors.md T11 law 2: encoding what was decoded clears X bits and unused fields and
nothing else (decisions D9, D10). -/
def Obligations.EncodeOfDecodeClearsUnusedBits : Prop :=
  ∀ (p : Params) (w : Word), encode p (decode p w) = w &&& usedBits p (decode p w)

/-- 30_encoding.md R72, R81 (decisions D9, D10): two words that differ only in bits the instruction
does not use are the same instruction. -/
def Obligations.UnusedBitsDoNotChangeDecoding : Prop :=
  ∀ (p : Params) (w w' : Word),
    w &&& usedBits p (decode p w) = w' &&& usedBits p (decode p w) → decode p w' = decode p w

/-- 30_encoding.md R70: every word decodes to a well-formed instruction, and its opcode is bits 15 to
11 of the word. -/
def Obligations.DecodedInstructionsAreWellFormed : Prop :=
  ∀ (p : Params) (w : Word),
    (decode p w).wellFormed = true ∧ (decode p w).opcode = opcodeBits w

/-- 30_encoding.md R73 (decision D11): the UNDEFINED words are four blocks of addresses. -/
def Obligations.UndefinedWordsAreFourBlocks : Prop :=
  ∀ (p : Params) (w : Word), (decode p w).isUndefined = true ↔
    w.toNat ≤ 0x07FF ∨ (0x7000 ≤ w.toNat ∧ w.toNat ≤ 0x7FFF) ∨
      (0xB000 ≤ w.toNat ∧ w.toNat ≤ 0xBFFF) ∨ (0xF000 ≤ w.toNat ∧ w.toNat ≤ 0xF7FF)

/-- 30_encoding.md R61: the opcode is w[15:11], and it alone selects the instruction but for three
opcodes, which LS, the condition and the PUSH/POP bit tell apart. -/
def Obligations.OpcodeSelectsInstruction : Prop :=
  ∀ (p : Params) (w w' : Word),
    (decode p w).opcode = w.extractLsb' 11 5 ∧
    (opcodeBits w = opcodeBits w' →
      opcodeBits w ≠ 0b11100#5 → opcodeBits w ≠ 0b11101#5 → opcodeBits w ≠ 0b11111#5 →
      (decode p w).mnemonic = (decode p w').mnemonic) ∧
    (opcodeBits w = 0b11101#5 →
      (decode p w).mnemonic = if w.getLsbD 9 then "LDW" else "SDW") ∧
    (opcodeBits w = 0b11111#5 → opcodeBits w' = 0b11111#5 →
      ((decode p w).mnemonic = (decode p w').mnemonic ↔
        w.extractLsb' 0 3 = w'.extractLsb' 0 3)) ∧
    (opcodeBits w = 0b11100#5 →
      (decode p w).mnemonic = "PUSH" ∨ (decode p w).mnemonic = "POP")

/-- 30_encoding.md R65, R67, R75: the fields of format B and of format D, sub-type Others, and the
eight values of its condition. That opcodes 11000 to 11011 are the four of format B, against the
source's own note, is the spec's resolution 90_conflicts.md C1 and decision D11 (log 11). -/
def Obligations.FieldsOfFormatsBAndD : Prop :=
  ∀ (p : Params) (w : Word) (rd : Reg) (imm8 : BitVec 8) (cond : BitVec 3),
    rd.val = (w.extractLsb' 0 3).toNat → imm8 = w.extractLsb' 3 8 → cond = w.extractLsb' 0 3 →
    (opcodeBits w = 0b11000#5 → decode p w = .addib rd imm8) ∧
    (opcodeBits w = 0b11001#5 → decode p w = .subib rd imm8) ∧
    (opcodeBits w = 0b11010#5 → decode p w = .lui rd imm8) ∧
    (opcodeBits w = 0b11011#5 → decode p w = .lli rd imm8) ∧
    (opcodeBits w = 0b11111#5 → cond = 0b000#3 → decode p w = .br imm8) ∧
    (opcodeBits w = 0b11111#5 → cond = 0b001#3 → (decode p w).mnemonic = "ABR") ∧
    (opcodeBits w = 0b11111#5 → cond = 0b010#3 → decode p w = .ret) ∧
    (opcodeBits w = 0b11111#5 → cond = 0b011#3 → decode p w = .bwl imm8) ∧
    (opcodeBits w = 0b11111#5 → cond = 0b100#3 → decode p w = .blt imm8) ∧
    (opcodeBits w = 0b11111#5 → cond = 0b101#3 → decode p w = .bge imm8) ∧
    (opcodeBits w = 0b11111#5 → cond = 0b110#3 → decode p w = .bne imm8) ∧
    (opcodeBits w = 0b11111#5 → cond = 0b111#3 → decode p w = .be imm8)

/-- 30_encoding.md R62, R66, R68: the fields of format A (register), of format C and of ABR, whose X
bits and unused fields take no part (decisions D9, D10). -/
def Obligations.FieldsOfFormatsAAndC : Prop :=
  ∀ (p : Params) (w : Word) (rd ra rb : Reg),
    rd.val = (w.extractLsb' 0 3).toNat → ra.val = (w.extractLsb' 3 3).toNat →
    rb.val = (w.extractLsb' 6 3).toNat →
    (opcodeBits w = 0b00100#5 → decode p w = .add rd ra rb) ∧
    (opcodeBits w = 0b00110#5 → decode p w = .adc rd ra rb) ∧
    (opcodeBits w = 0b01001#5 → decode p w = .sub rd ra rb) ∧
    (opcodeBits w = 0b01011#5 → decode p w = .suc rd ra rb) ∧
    (opcodeBits w = 0b10000#5 → decode p w = .and rd ra rb) ∧
    (opcodeBits w = 0b10001#5 → decode p w = .or rd ra rb) ∧
    (opcodeBits w = 0b10010#5 → decode p w = .xor rd ra rb) ∧
    (opcodeBits w = 0b10100#5 → decode p w = .nand rd ra rb) ∧
    (opcodeBits w = 0b10101#5 → decode p w = .nor rd ra rb) ∧
    (opcodeBits w = 0b01000#5 → decode p w = .neg rd) ∧
    (opcodeBits w = 0b10011#5 → decode p w = .not rd ra) ∧
    (opcodeBits w = 0b01101#5 → decode p w = .cmp ra rb) ∧
    (opcodeBits w = 0b11101#5 → w.getLsbD 9 = true → decode p w = .ldw rd ra rb) ∧
    (opcodeBits w = 0b11101#5 → w.getLsbD 9 = false → decode p w = .sdw rd ra rb) ∧
    (opcodeBits w = 0b11111#5 → rd = 1 → decode p w = .abr ra)

/-- 30_encoding.md R63, R64, R69, R81: imm5 is w[10:6] and imm4 is w[9:6] or w[10:7] (decision D3,
IMM4_POS); PUSH and POP are told apart by the bit of STACK_DIR_BIT (decision D12), L is w[10], and
the register is w[2:0]. -/
def Obligations.FieldsOfImmediateAndStackFormats : Prop :=
  ∀ (p : Params) (w : Word) (rd ra : Reg) (imm5 : BitVec 5) (imm4 : BitVec 4)
      (operand : StackOperand),
    rd.val = (w.extractLsb' 0 3).toNat → ra.val = (w.extractLsb' 3 3).toNat →
    imm5 = w.extractLsb' 6 5 →
    imm4 = (match p.imm4Pos with | .low => w.extractLsb' 6 4 | .high => w.extractLsb' 7 4) →
    operand = (if w.getLsbD 10 = true then .link else .reg rd) →
    (opcodeBits w = 0b00101#5 → decode p w = .addi rd ra imm5) ∧
    (opcodeBits w = 0b00111#5 → decode p w = .adci rd ra imm5) ∧
    (opcodeBits w = 0b01010#5 → decode p w = .subi rd ra imm5) ∧
    (opcodeBits w = 0b01100#5 → decode p w = .suci rd ra imm5) ∧
    (opcodeBits w = 0b00001#5 → decode p w = .lsl rd ra imm4) ∧
    (opcodeBits w = 0b00010#5 → decode p w = .lsr rd ra imm4) ∧
    (opcodeBits w = 0b00011#5 → decode p w = .asr rd ra imm4) ∧
    (opcodeBits w = 0b11100#5 →
      w.getLsbD (p.stackDirBit.place.val + 3) = p.stackDirBit.popValue →
      decode p w = .pop operand) ∧
    (opcodeBits w = 0b11100#5 →
      w.getLsbD (p.stackDirBit.place.val + 3) ≠ p.stackDirBit.popValue →
      decode p w = .push operand)

/-- 95_test_vectors.md T1, T2: words written out from the encodings, at the default parameters. -/
def Obligations.WrittenWordsDecode : Prop :=
  decode Params.default 0x211D#16 = .add 5 3 4 ∧
  decode Params.default 0x2FDD#16 = .addi 5 3 31 ∧
  decode Params.default 0x41FD#16 = .neg 5 ∧
  decode Params.default 0x99DD#16 = .not 5 3 ∧
  decode Params.default 0x1CDD#16 = .asr 5 3 3 ∧
  decode Params.default 0xC4B5#16 = .addib 5 150 ∧
  decode Params.default 0xEE9D#16 = .ldw 5 3 2 ∧
  decode Params.default 0xFC05#16 = .bge 0x80 ∧
  decode Params.default 0xFFD9#16 = .abr 3 ∧
  decode Params.default 0xE407#16 = .push .link ∧
  decode Params.default 0xE205#16 = .pop (.reg 5) ∧
  decode Params.default 0x0000#16 = .undefined00000 0x0000

/-- 30_encoding.md R76 (decision D5): the imm8 an assembler writes for a label brings the branch to
that label, and every reachable target has one. That the distance wraps modulo 65536 is the model's
reading (log 10). -/
def Obligations.AssembledLabelsAreBranchTargets : Prop :=
  ∀ (s : State) (label : Word) (imm8 : BitVec 8),
    asmLabel s.params s.pc label = some imm8 ↔ s.branchTarget imm8 = label

/-- 30_encoding.md R76, R78: what each operand check refuses and what value it keeps; for each form
of a line, that the assembler answers exactly the instruction the line stands for, with the operand
values written, and refuses a line that stands for none; and that it makes one of the 35
instructions. A label is in range if some imm8 branches to it modulo 65536 (log 10). -/
def Obligations.AssemblerChecksRanges : Prop :=
  (∀ n : Nat, asmReg n = none ↔ 7 < n) ∧
  (∀ (n : Nat) (r : Reg), asmReg n = some r ↔ r.val = n) ∧
  (∀ n : Int, (asmImm 5 n = none ↔ n < 0 ∨ 31 < n) ∧ (asmImm 4 n = none ↔ n < 0 ∨ 15 < n) ∧
    (asmImm 8 n = none ↔ n < 0 ∨ 255 < n)) ∧
  (∀ (k : Nat) (n : Int) (b : BitVec k), asmImm k n = some b ↔ (b.toNat : Int) = n) ∧
  (∀ (p : Params) (a : Word) (line : AsmInstr) (i : Instr),
    assemble p a line = some i ↔ line.standsFor p a i) ∧
  (∀ (p : Params) (a : Word) (line : AsmInstr) (i : Instr),
    assemble p a line = some i → i.isUndefined = false)

/-! ## Memory -/

/-- 20_memory.md R42, R43, R50 (decisions D15 to D17, D24): after a store, a load of the same address
gives the word stored, a load of any other gives what it gave, and nothing but memory changed. -/
def Obligations.LoadSeesLatestStore : Prop :=
  ∀ (s t : State) (addr v : Word), s.memWrite addr v = .ok t →
    t.memRead addr = .ok v ∧ (∀ b : Word, b ≠ addr → t.memRead b = s.memRead b) ∧
    { t with mem := s.mem } = s

/-- 10_state.md R29 (decision D15): a total map from addresses to words has one canonical list
(logs 3, 4). -/
def Obligations.EqualContentsAreEqualMemories : Prop :=
  ∀ m m' : Memory, m.wf = true → m'.wf = true →
    (∀ a : Word, m.read a.toNat = m'.read a.toNat) → m = m'

/-- 20_memory.md R43, R56, 60_exceptions.md R182: when a store is made, when it is a memory fault and
when it is refused, MEM_VALID before TEXT. -/
def Obligations.StoreChecksInOrder : Prop :=
  ∀ (s : State) (addr v : Word),
    (memValid s.params addr = false → s.memWrite addr v = .error (.memoryFault s.pc addr)) ∧
    (memValid s.params addr = true → addr.toNat ∈ s.text →
      s.memWrite addr v = .error (.textWriteRefused s.pc addr)) ∧
    (memValid s.params addr = true → addr.toNat ∉ s.text →
      ∃ t, s.memWrite addr v = .ok t ∧ storedWord s.mem t.mem addr v)

/-! ## Reset and loading -/

/-- 10_state.md R32, 70_reset_and_hazards.md R200 (decisions D18 to D20). SP = 0x01FF is the model's
choice (log 6), and so are the zeros of R0 to R7, LR and the flags (log 5). -/
def Obligations.ResetLeaves : Prop :=
  State.reset.pc = 0x0000#16 ∧ State.reset.sp = 0x01FF#16 ∧ State.reset.faultMark = none ∧
  State.reset.lr = 0 ∧ (∀ r : Reg, State.reset.reg r = 0) ∧
  State.reset.flags = { c := false, v := false, n := false, z := false } ∧
  State.reset.justReset = true ∧ core.reset = State.reset

/-- The canonical form holds at reset (the start of `StepKeepsCanonicalForm`; logs 3, 4, 7). -/
def Obligations.ResetIsCanonical : Prop :=
  State.reset.wf = true ∧ ∀ p : Params, (State.resetWith p).wf = true ∧
    (State.resetWith p).justReset = true

/-- 70_reset_and_hazards.md R203 (decisions D16, D29): loading a run keeps what reset fixed, makes
TEXT exactly the program's addresses, puts each program word where fetch reads it and each data word
where a load reads it, under either memory organisation, and leaves every other word and every other
part of the state alone. The model's choices: the canonical form that loading keeps (logs 3, 4, 7),
and that under `unified` a program word wins over a data word of the same address (log 17). -/
def Obligations.LoadingARun : Prop :=
  ∀ (s : State) (program data : List (Word × Word)),
    (s.wf = true → (s.load program data).wf = true) ∧
    (s.justReset = true → (s.load program data).justReset = true) ∧
    (∀ a : Word, (s.load program data).isText a = true ↔ a ∈ program.map Prod.fst) ∧
    ((program.map Prod.fst).Nodup → ∀ a w : Word, (a, w) ∈ program →
      ((s.load program data).setPc a).fetchedWord = w) ∧
    ((data.map Prod.fst).Nodup → ∀ a w : Word, (a, w) ∈ data →
      s.params.memOrg = .harvard ∨ a ∉ program.map Prod.fst →
      (s.load program data).mem.read a.toNat = w) ∧
    (∀ a : Word, a ∉ data.map Prod.fst →
      s.params.memOrg = .harvard ∨ a ∉ program.map Prod.fst →
      (s.load program data).mem.read a.toNat = s.mem.read a.toNat) ∧
    (∀ a : Word, s.params.memOrg = .unified ∨ a ∉ program.map Prod.fst →
      (s.load program data).imem.read a.toNat = s.imem.read a.toNat) ∧
    { s.load program data with mem := s.mem, imem := s.imem, text := s.text } = s

/-! ## The step -/

/-- 20_memory.md R41, 60_exceptions.md R182, 10_state.md R22: an unmarked machine whose fetch address
is backed runs the instruction that the word at PC decodes to, from the memory MEM_ORG names. PC is
still the instruction's own address `a` while it runs. The organisations are the spec's decision D16.
That under `harvard` every address can be fetched from is the model's choice (log 8). -/
def Obligations.StepRunsTheDecodedInstruction : Prop :=
  ∀ s : State, s.faultMark = none →
    (s.params.memOrg = .unified → memValid s.params s.pc = true →
      step s = exec (decode s.params (s.mem.read s.pc.toNat)) s) ∧
    (s.params.memOrg = .harvard →
      step s = exec (decode s.params (s.imem.read s.pc.toNat)) s)

/-- 20_memory.md R41, 60_exceptions.md R182: a fetch from an unbacked address is a memory fault and
nothing else. That IMem is not bounded under `harvard` is the model's choice (log 8). -/
def Obligations.FetchOfUnbackedAddressFaults : Prop :=
  ∀ s : State, s.faultMark = none → s.params.memOrg = .unified →
    memValid s.params s.pc = false →
    step s = .next { s with faultMark := some (.memoryFault s.pc s.pc) }

/-- 10_state.md R31, 60_exceptions.md R181 (decision D22): a machine stops exactly when its mark is
set, for the reason marked, and never refuses. -/
def Obligations.StepStopsExactlyWhenMarked : Prop :=
  ∀ s : State, (∀ f : Fault, step s = .fault f ↔ s.faultMark = some f) ∧
    (∀ r : Refusal, step s ≠ .refused r) ∧
    ((∃ t, step s = .next t) ↔ s.faultMark = none)

/-- 60_exceptions.md R181, R182 (decision D22), 95_test_vectors.md T11 law 10: a step that raises
changes nothing but the mark. -/
def Obligations.FaultsArePrecise : Prop :=
  ∀ s t : State, step s = .next t → t.faultMark ≠ none →
    t = { s with faultMark := t.faultMark }

/-- 60_exceptions.md R181, R182 (decisions D11, D16, D17, D22): which step raises which fault, both
ways: the fetch address first, then the opcode, then the one access, MEM_VALID before TEXT. -/
def Obligations.FaultsHaveExactlyTheirCauses : Prop :=
  ∀ (s : State) (i : Instr) (f : Fault), s.faultMark = none → i = decode s.params s.fetchedWord →
    ((∃ t, step s = .next t ∧ t.faultMark = some f) ↔
      (s.fetchValid = false ∧ f = .memoryFault s.pc s.pc) ∨
      (s.fetchValid = true ∧
        ((i.isUndefined = true ∧ f = .undefinedInstruction s.pc s.fetchedWord) ∨
         (∃ addr, (loadsFrom s i = some addr ∨ storesAt s i = some addr) ∧
            memValid s.params addr = false ∧ f = .memoryFault s.pc addr) ∨
         (∃ addr, storesAt s i = some addr ∧ memValid s.params addr = true ∧
            s.isText addr = true ∧ f = .textWriteRefused s.pc addr))))

/-- 60_exceptions.md R181: with MEM_VALID = all, however the list of unbacked blocks says so, a memory
fault never occurs (decision D17). -/
def Obligations.NoMemoryFaultWhenAllIsBacked : Prop :=
  ∀ (s t : State) (a addr : Word), (∀ b : Word, memValid s.params b = true) →
    step s = .next t → t.faultMark ≠ some (.memoryFault a addr)

/-- 20_memory.md R43, R53, 10_state.md R29 (decision D16): no step changes a word of program text,
IMem, TEXT or the parameters, so what was loaded as program stays (log 1). -/
def Obligations.StepKeepsTheProgram : Prop :=
  ∀ (s t : State) (w : Word → Word), (∀ a : Word, s.isText a = true → s.mem.read a.toNat = w a) →
    step s = .next t →
    t.params = s.params ∧ t.text = s.text ∧ t.imem = s.imem ∧
    (∀ a : Word, t.isText a = true → t.mem.read a.toNat = w a)

/-- Every step keeps the canonical form of Mem, IMem and TEXT (10_state.md R29; logs 3, 4, 7). -/
def Obligations.StepKeepsCanonicalForm : Prop :=
  ∀ s t : State, s.wf = true → step s = .next t → t.wf = true

/-- 20_memory.md R53 (decision D16): where IMem holds the word that Mem holds at PC, at a backed
address, `unified` and `harvard` take the same step. -/
def Obligations.OrganisationsTakeTheSameStep : Prop :=
  ∀ s t : State, memValid s.params s.pc = true →
    s.mem.read s.pc.toNat = s.imem.read s.pc.toNat →
    (step (s.withOrg .unified) = .next (t.withOrg .unified) ↔
      step (s.withOrg .harvard) = .next (t.withOrg .harvard))

/-- 60_exceptions.md R193 (decision D23): at the end-of-run marker the machine goes on for ever with
no change; the word 0xFFF8 is that marker at the default parameters. -/
def Obligations.EndOfRunIsStable : Prop :=
  (∀ s : State, s.atEnd = true → step s = .next s) ∧
  (∀ s : State, s.params = Params.default → s.faultMark = none → s.fetchedWord = 0xFFF8#16 →
    s.atEnd = true)

/-! ## Frames, over every instruction -/

/-- 10_state.md R21: an instruction changes no general register but the one its row writes. -/
def Obligations.GeneralRegisterFrame : Prop :=
  ∀ (i : Instr) (s t : State) (r : Reg), exec i s = .next t → i.regWritten ≠ some r →
    t.reg r = s.reg r

/-- 10_state.md R21: a register that an instruction neither reads nor writes has no influence on
it: changing it before or after gives the same state. -/
def Obligations.UnreadRegistersHaveNoInfluence : Prop :=
  ∀ (i : Instr) (s t : State) (r : Reg) (v : Word), r ∉ i.regsRead → i.regWritten ≠ some r →
    exec i s = .next t → exec i (s.setReg r v) = .next (t.setReg r v)

/-- 10_state.md R26 (decision D26), 95_test_vectors.md T11 law 9: flags that are not listed for an
instruction keep their values. -/
def Obligations.FlagFrame : Prop :=
  ∀ (i : Instr) (s t : State), exec i s = .next t →
    (i.flagsWritten = .none → t.flags = s.flags) ∧
    (i.flagsWritten = .zOnly → t.flags.c = s.flags.c ∧ t.flags.v = s.flags.v ∧
      t.flags.n = s.flags.n)

/-- 10_state.md R23, R24 (decision D14): LR changes only by BWL and POP RL, SP only by PUSH and POP.
10_state.md R29, 20_memory.md R53 (decision D16): IMem and TEXT never change. That the parameters are
a part of the state, which no instruction changes, is the model's choice (log 1). -/
def Obligations.SpecialRegisterFrame : Prop :=
  ∀ (i : Instr) (s t : State), exec i s = .next t →
    (i.writesLr = false → t.lr = s.lr) ∧ (i.writesSp = false → t.sp = s.sp) ∧
    t.imem = s.imem ∧ t.text = s.text ∧ t.params = s.params

/-- 10_state.md R21, 20_memory.md R42, R43: every word of memory is unchanged but the one at the
address the instruction stores to, computed as its meaning computes it; all of memory for an
instruction that stores nothing. -/
def Obligations.MemoryFrame : Prop :=
  ∀ (i : Instr) (s t : State) (b : Word), exec i s = .next t → storesAt s i ≠ some b →
    t.mem.read b.toNat = s.mem.read b.toNat

/-- 10_state.md R22 (decision D5): an instruction that completes and is no control transfer leaves
PC at `nxt`, modulo 65536. -/
def Obligations.SequentialPc : Prop :=
  ∀ (i : Instr) (s t : State), s.faultMark = none → exec i s = .next t → t.faultMark = none →
    i.isControlTransfer = false → t.pc.toNat = (s.pc.toNat + 1) % 65536

/-! ## Arithmetic -/

/-- 40_data_manipulation.md R102, R103, 41_byte_immediate.md R130 (decisions D4, D6): ADD, ADDI and
ADDIB write the sum modulo 65536 and the flags of the exact sum, and nothing else. -/
def Obligations.AdditionResults : Prop :=
  ∀ (s : State) (rd ra rb : Reg) (imm5 : BitVec 5) (imm8 : BitVec 8),
    (∀ y, y = s.reg rb → exec (.add rd ra rb) s = .next (s.afterResult rd
      (BitVec.ofNat 16 (exactSum (s.reg ra) y false)) (sumFlags (s.reg ra) y false))) ∧
    (∀ y, y = BitVec.ofNat 16 imm5.toNat → exec (.addi rd ra imm5) s = .next (s.afterResult rd
      (BitVec.ofNat 16 (exactSum (s.reg ra) y false)) (sumFlags (s.reg ra) y false))) ∧
    (∀ y, y = BitVec.ofNat 16 imm8.toNat → exec (.addib rd imm8) s = .next (s.afterResult rd
      (BitVec.ofNat 16 (exactSum (s.reg rd) y false)) (sumFlags (s.reg rd) y false)))

/-- 40_data_manipulation.md R104, R105 (decisions D4, D6): ADC and ADCI add the c of before. -/
def Obligations.AdditionWithCarryResults : Prop :=
  ∀ (s : State) (rd ra rb : Reg) (imm5 : BitVec 5),
    (∀ y, y = s.reg rb → exec (.adc rd ra rb) s = .next (s.afterResult rd
      (BitVec.ofNat 16 (exactSum (s.reg ra) y s.flags.c)) (sumFlags (s.reg ra) y s.flags.c))) ∧
    (∀ y, y = BitVec.ofNat 16 imm5.toNat → exec (.adci rd ra imm5) s = .next (s.afterResult rd
      (BitVec.ofNat 16 (exactSum (s.reg ra) y s.flags.c)) (sumFlags (s.reg ra) y s.flags.c)))

/-- 40_data_manipulation.md R107, R108, 41_byte_immediate.md R131 (decisions D4, D6, D7): SUB, SUBI
and SUBIB write the difference modulo 65536 and the flags of the exact difference. -/
def Obligations.SubtractionResults : Prop :=
  ∀ (s : State) (rd ra rb : Reg) (imm5 : BitVec 5) (imm8 : BitVec 8),
    (∀ y, y = s.reg rb → exec (.sub rd ra rb) s = .next (s.afterResult rd
      (BitVec.ofInt 16 (exactDifference (s.reg ra) y true))
      (differenceFlags s.params.subCarry (s.reg ra) y true))) ∧
    (∀ y, y = BitVec.ofNat 16 imm5.toNat → exec (.subi rd ra imm5) s = .next (s.afterResult rd
      (BitVec.ofInt 16 (exactDifference (s.reg ra) y true))
      (differenceFlags s.params.subCarry (s.reg ra) y true))) ∧
    (∀ y, y = BitVec.ofNat 16 imm8.toNat → exec (.subib rd imm8) s = .next (s.afterResult rd
      (BitVec.ofInt 16 (exactDifference (s.reg rd) y true))
      (differenceFlags s.params.subCarry (s.reg rd) y true)))

/-- 40_data_manipulation.md R109, R110 (decisions D4, D6, D7): SUC and SUCI subtract one more when
c is 0. -/
def Obligations.SubtractionWithCarryResults : Prop :=
  ∀ (s : State) (rd ra rb : Reg) (imm5 : BitVec 5),
    (∀ y, y = s.reg rb → exec (.suc rd ra rb) s = .next (s.afterResult rd
      (BitVec.ofInt 16 (exactDifference (s.reg ra) y s.flags.c))
      (differenceFlags s.params.subCarry (s.reg ra) y s.flags.c))) ∧
    (∀ y, y = BitVec.ofNat 16 imm5.toNat → exec (.suci rd ra imm5) s = .next (s.afterResult rd
      (BitVec.ofInt 16 (exactDifference (s.reg ra) y s.flags.c))
      (differenceFlags s.params.subCarry (s.reg ra) y s.flags.c)))

/-- 40_data_manipulation.md R106 (decisions D7, D9): NEG writes `0 - R[rd]` and the flags of that
difference. -/
def Obligations.NegationResult : Prop :=
  ∀ (s : State) (rd : Reg), exec (.neg rd) s = .next (s.afterResult rd
    (BitVec.ofInt 16 (-((s.reg rd).toNat : Int)))
    (differenceFlags s.params.subCarry 0x0000#16 (s.reg rd) true))

/-- 40_data_manipulation.md R111 (decision D7): CMP writes the flags of the difference and no
register. -/
def Obligations.ComparisonResult : Prop :=
  ∀ (s : State) (ra rb : Reg), exec (.cmp ra rb) s = .next { s with
    flags := differenceFlags s.params.subCarry (s.reg ra) (s.reg rb) true, pc := s.pc + 1 }

/-- 40_data_manipulation.md R121, 95_test_vectors.md T11 law 4 (decision D7): ADD of the low words
and ADC of the high words add 32-bit numbers, SUB and SUC subtract them, for any registers whose low
result does not overwrite a high operand or result. -/
def Obligations.DoubleWordArithmetic : Prop :=
  ∀ (s : State) (dl dh al ah bl bh : Reg), dl ≠ ah → dl ≠ bh → dl ≠ dh →
    (∃ t u, exec (.add dl al bl) s = .next t ∧ exec (.adc dh ah bh) t = .next u ∧
      (u.reg dh).toNat * 65536 + (u.reg dl).toNat =
        ((s.reg ah).toNat * 65536 + (s.reg al).toNat +
          ((s.reg bh).toNat * 65536 + (s.reg bl).toNat)) % 4294967296) ∧
    (s.params.subCarry = .notBorrow →
      ∃ t u, exec (.sub dl al bl) s = .next t ∧ exec (.suc dh ah bh) t = .next u ∧
        ((u.reg dh).toNat * 65536 + (u.reg dl).toNat : Int) =
          (((s.reg ah).toNat * 65536 + (s.reg al).toNat : Int) -
            ((s.reg bh).toNat * 65536 + (s.reg bl).toNat : Int)) % 4294967296)

/-- 40_data_manipulation.md R106, R115, R122, 95_test_vectors.md T11 law 5: NEG twice and NOT twice
restore the register, and SUB and XOR of a register with itself give 0. The law's c = 1 is the
spec's decision D7; that c is 0 under `SUB_CARRY` = borrow is the model's reading of that OPEN
alternative (log 16). -/
def Obligations.SelfInverseOperations : Prop :=
  ∀ (s : State) (rd ra : Reg),
    (∃ t u, exec (.neg rd) s = .next t ∧ exec (.neg rd) t = .next u ∧ u.regs = s.regs) ∧
    (∃ t u, exec (.not rd rd) s = .next t ∧ exec (.not rd rd) t = .next u ∧ u.regs = s.regs) ∧
    (∃ t, exec (.sub rd ra ra) s = .next t ∧ t.reg rd = 0 ∧ t.flags.z = true ∧
      t.flags.n = false ∧ t.flags.v = false ∧
      (t.flags.c = true ↔ s.params.subCarry = .notBorrow)) ∧
    (∃ t, exec (.xor rd ra ra) s = .next t ∧ t.reg rd = 0 ∧ t.flags.z = true)

/-! ## Logic, shifts, byte loads -/

/-- 40_data_manipulation.md R112 to R117: encoding, result, z alone of the flags, PC, and nothing
else. That X bits and the unused rb field of NOT take no part is the spec's decisions D10 and D9, and
that c, v and n keep their values is D26 (log 11). -/
def Obligations.LogicResults : Prop :=
  ∀ (p : Params) (w : Word) (s : State) (rd ra rb : Reg),
    (opcodeBits w = 0b10000#5 → decode p w = .and (rdField w) (raField w) (rbField w)) ∧
    (opcodeBits w = 0b10001#5 → decode p w = .or (rdField w) (raField w) (rbField w)) ∧
    (opcodeBits w = 0b10010#5 → decode p w = .xor (rdField w) (raField w) (rbField w)) ∧
    (opcodeBits w = 0b10011#5 → decode p w = .not (rdField w) (raField w)) ∧
    (opcodeBits w = 0b10100#5 → decode p w = .nand (rdField w) (raField w) (rbField w)) ∧
    (opcodeBits w = 0b10101#5 → decode p w = .nor (rdField w) (raField w) (rbField w)) ∧
    (∀ r, r = s.reg ra &&& s.reg rb → exec (.and rd ra rb) s =
      .next (s.afterResult rd r { s.flags with z := decide (r.toNat = 0) })) ∧
    (∀ r, r = s.reg ra ||| s.reg rb → exec (.or rd ra rb) s =
      .next (s.afterResult rd r { s.flags with z := decide (r.toNat = 0) })) ∧
    (∀ r, r = s.reg ra ^^^ s.reg rb → exec (.xor rd ra rb) s =
      .next (s.afterResult rd r { s.flags with z := decide (r.toNat = 0) })) ∧
    (∀ r, r = ~~~(s.reg ra) → exec (.not rd ra) s =
      .next (s.afterResult rd r { s.flags with z := decide (r.toNat = 0) })) ∧
    (∀ r, r = ~~~(s.reg ra &&& s.reg rb) → exec (.nand rd ra rb) s =
      .next (s.afterResult rd r { s.flags with z := decide (r.toNat = 0) })) ∧
    (∀ r, r = ~~~(s.reg ra ||| s.reg rb) → exec (.nor rd ra rb) s =
      .next (s.afterResult rd r { s.flags with z := decide (r.toNat = 0) }))

/-- 40_data_manipulation.md R118 to R120 (decision D8): the three shifts as multiplication modulo
65536, unsigned division and signed division toward minus infinity; no flag changes. -/
def Obligations.ShiftResults : Prop :=
  ∀ (s : State) (rd ra : Reg) (imm4 : BitVec 4),
    exec (.lsl rd ra imm4) s = .next (s.afterResult rd
      (BitVec.ofNat 16 ((s.reg ra).toNat * 2 ^ imm4.toNat)) s.flags) ∧
    exec (.lsr rd ra imm4) s = .next (s.afterResult rd
      (BitVec.ofNat 16 ((s.reg ra).toNat / 2 ^ imm4.toNat)) s.flags) ∧
    exec (.asr rd ra imm4) s = .next (s.afterResult rd
      (BitVec.ofInt 16 ((s.reg ra).toInt.fdiv (2 ^ imm4.toNat))) s.flags)

/-- 41_byte_immediate.md R132, R133 (decision D25): LUI and LLI replace one byte and keep the
other; no flag changes. -/
def Obligations.ByteLoadResults : Prop :=
  ∀ (s : State) (rd : Reg) (imm8 : BitVec 8),
    exec (.lui rd imm8) s = .next (s.afterResult rd
      (BitVec.ofNat 16 (imm8.toNat * 256 + (s.reg rd).toNat % 256)) s.flags) ∧
    exec (.lli rd imm8) s = .next (s.afterResult rd
      (BitVec.ofNat 16 ((s.reg rd).toNat / 256 * 256 + imm8.toNat)) s.flags)

/-- 41_byte_immediate.md R133, 95_test_vectors.md T11 law 6 (decision D25): LLI and LUI on one
register, in either order, make it the constant, whatever it held. -/
def Obligations.ConstantLoadPair : Prop :=
  ∀ (s : State) (rd : Reg) (hi lo : BitVec 8) (k : Word), k.toNat = hi.toNat * 256 + lo.toNat →
    (∃ t, exec (.lli rd lo) s = .next t ∧
      exec (.lui rd hi) t = .next { s with regs := s.regs.set rd.val k, pc := s.pc + 2 }) ∧
    (∃ t, exec (.lui rd hi) s = .next t ∧
      exec (.lli rd lo) t = .next { s with regs := s.regs.set rd.val k, pc := s.pc + 2 })

/-! ## Data transfer -/

/-- 42_data_transfer.md R140, R141: LDW's encoding, its address, base and offset symmetric, the word
loaded, and its fault; no flag and no other register changes. That X bit 10 takes no part is the
spec's decision D10, the address modulo 65536 D15, the fault D17 (log 11). -/
def Obligations.LoadWordResult : Prop :=
  ∀ (p : Params) (w : Word) (s : State) (rd ra ro : Reg) (ea : Word),
    ea = BitVec.ofNat 16 (((s.reg ra).toNat + (s.reg ro).toNat) % 65536) →
    (opcodeBits w = 0b11101#5 → w.getLsbD 9 = true →
      decode p w = .ldw (rdField w) (raField w) (rbField w)) ∧
    (memValid s.params ea = true → exec (.ldw rd ra ro) s =
      .next (s.afterResult rd (s.mem.read ea.toNat) s.flags)) ∧
    (memValid s.params ea = false → exec (.ldw rd ra ro) s =
      .next { s with faultMark := some (.memoryFault s.pc ea) }) ∧
    exec (.ldw rd ro ra) s = exec (.ldw rd ra ro) s

/-- 42_data_transfer.md R142: SDW's encoding, the one word it stores, and its two faults; no
register and no flag changes. That X bit 10 takes no part is the spec's decision D10, the address
modulo 65536 D15, the two faults D16 and D17 (log 11). -/
def Obligations.StoreWordResult : Prop :=
  ∀ (p : Params) (w : Word) (s : State) (rd ra ro : Reg) (ea : Word),
    ea = BitVec.ofNat 16 (((s.reg ra).toNat + (s.reg ro).toNat) % 65536) →
    (opcodeBits w = 0b11101#5 → w.getLsbD 9 = false →
      decode p w = .sdw (rdField w) (raField w) (rbField w)) ∧
    (memValid s.params ea = true → s.isText ea = false → ∃ m : Memory,
      exec (.sdw rd ra ro) s = .next { s with mem := m, pc := s.pc + 1 } ∧
      storedWord s.mem m ea (s.reg rd)) ∧
    (memValid s.params ea = true → s.isText ea = true → exec (.sdw rd ra ro) s =
      .next { s with faultMark := some (.textWriteRefused s.pc ea) }) ∧
    (memValid s.params ea = false → exec (.sdw rd ra ro) s =
      .next { s with faultMark := some (.memoryFault s.pc ea) })

/-! ## Control transfer -/

/-- 43_control_transfer.md R150 to R155 (decisions D4, D5): the relative branches, their conditions
and their targets modulo 65536; nothing but PC changes. -/
def Obligations.RelativeBranchResults : Prop :=
  ∀ (s : State) (imm8 : BitVec 8),
    exec (.br imm8) s = .next (s.afterBranch true imm8) ∧
    exec (.bne imm8) s = .next (s.afterBranch (decide (s.flags.z = false)) imm8) ∧
    exec (.be imm8) s = .next (s.afterBranch (decide (s.flags.z = true)) imm8) ∧
    exec (.blt imm8) s = .next (s.afterBranch
      ((s.flags.n && !s.flags.v) || (!s.flags.n && s.flags.v)) imm8) ∧
    exec (.bge imm8) s = .next (s.afterBranch
      ((s.flags.n && s.flags.v) || (!s.flags.n && !s.flags.v)) imm8)

/-- 40_data_manipulation.md R111, 43_control_transfer.md R159, 95_test_vectors.md T6.2 (decisions
D6, D7): after CMP, the branches compare the operands, and c says unsigned not-below. -/
def Obligations.BranchesAfterComparison : Prop :=
  ∀ (s : State) (ra rb : Reg) (imm8 : BitVec 8), ∃ t, exec (.cmp ra rb) s = .next t ∧
    exec (.be imm8) t = .next (t.afterBranch (decide (s.reg ra = s.reg rb)) imm8) ∧
    exec (.bne imm8) t = .next (t.afterBranch (decide (s.reg ra ≠ s.reg rb)) imm8) ∧
    exec (.blt imm8) t =
      .next (t.afterBranch (decide ((s.reg ra).toInt < (s.reg rb).toInt)) imm8) ∧
    exec (.bge imm8) t =
      .next (t.afterBranch (decide ((s.reg rb).toInt ≤ (s.reg ra).toInt)) imm8) ∧
    (s.params.subCarry = .notBorrow →
      (t.flags.c = true ↔ (s.reg rb).toNat ≤ (s.reg ra).toNat))

/-- 43_control_transfer.md R156 (decisions D5, D27): BWL links the address after it and branches. -/
def Obligations.BranchWithLinkResult : Prop :=
  ∀ (s : State) (imm8 : BitVec 8), exec (.bwl imm8) s =
    .next { s.afterBranch true imm8 with lr := BitVec.ofNat 16 ((s.pc.toNat + 1) % 65536) }

/-- 43_control_transfer.md R157: RET's encoding and effect: PC takes LR, and nothing else changes. -/
def Obligations.ReturnResult : Prop :=
  (∀ (p : Params) (w : Word), opcodeBits w = 0b11111#5 → w.extractLsb' 0 3 = 0b010#3 →
    decode p w = .ret) ∧
  (∀ s : State, exec .ret s = .next { s with pc := s.lr })

/-- 43_control_transfer.md R158: ABR's encoding and effect: PC takes R[ra], and nothing else
changes. -/
def Obligations.AbsoluteBranchResult : Prop :=
  (∀ (p : Params) (w : Word), opcodeBits w = 0b11111#5 → w.extractLsb' 0 3 = 0b001#3 →
    decode p w = .abr (raField w)) ∧
  (∀ (s : State) (ra : Reg), exec (.abr ra) s = .next { s with pc := s.reg ra })

/-- 95_test_vectors.md T11 law 8, 43_control_transfer.md R156, R157 (decision D5): with LR
undisturbed since a BWL, RET continues after the BWL. -/
def Obligations.CallThenReturn : Prop :=
  ∀ (s u : State) (imm8 : BitVec 8), ∃ t, exec (.bwl imm8) s = .next t ∧
    (u.lr = t.lr → exec .ret u = .next { u with pc := s.pc + 1 })

/-! ## Stack -/

/-- 44_stack_operations.md R170, R171 (decisions D12, D13): PUSH of a register or of LR, under either
stack discipline, and its two faults. -/
def Obligations.PushResult : Prop :=
  ∀ (s : State) (operand : StackOperand) (addr v : Word),
    addr = (if s.params.stackFull = true then s.sp + 1 else s.sp) →
    v = (match operand with | .reg ra => s.reg ra | .link => s.lr) →
    (memValid s.params addr = true → s.isText addr = false → ∃ m : Memory,
      exec (.push operand) s = .next { s with mem := m, sp := s.sp + 1, pc := s.pc + 1 } ∧
      storedWord s.mem m addr v) ∧
    (memValid s.params addr = true → s.isText addr = true → exec (.push operand) s =
      .next { s with faultMark := some (.textWriteRefused s.pc addr) }) ∧
    (memValid s.params addr = false → exec (.push operand) s =
      .next { s with faultMark := some (.memoryFault s.pc addr) })

/-- 44_stack_operations.md R170, R172 (decisions D12, D13): POP into a register or into LR, under
either stack discipline, and its fault. -/
def Obligations.PopResult : Prop :=
  ∀ (s : State) (ra : Reg) (addr : Word),
    addr = (if s.params.stackFull = true then s.sp else s.sp - 1) →
    (memValid s.params addr = true →
      exec (.pop (.reg ra)) s = .next { s with
        regs := s.regs.set ra.val (s.mem.read addr.toNat), sp := s.sp - 1, pc := s.pc + 1 } ∧
      exec (.pop .link) s = .next { s with
        lr := s.mem.read addr.toNat, sp := s.sp - 1, pc := s.pc + 1 }) ∧
    (memValid s.params addr = false →
      exec (.pop (.reg ra)) s = .next { s with faultMark := some (.memoryFault s.pc addr) } ∧
      exec (.pop .link) s = .next { s with faultMark := some (.memoryFault s.pc addr) })

/-- 44_stack_operations.md R173, 95_test_vectors.md T11 law 7: PUSH then POP, when neither faults,
restores SP, moves the value, and changes memory at the pushed slot alone, under either
discipline. -/
def Obligations.PushThenPop : Prop :=
  ∀ (s : State) (x y : StackOperand) (slot : Word),
    slot = (if s.params.stackFull = true then s.sp + 1 else s.sp) →
    memValid s.params slot = true → s.isText slot = false →
    ∃ t u, exec (.push x) s = .next t ∧ exec (.pop y) t = .next u ∧ u.sp = s.sp ∧
      u.readStackOperand y = s.readStackOperand x ∧
      storedWord s.mem u.mem slot (s.readStackOperand x)

/-! ## UNDEFINED opcodes -/

/-- 30_encoding.md R73, 60_exceptions.md R181 (decision D11): each of the six opcodes raises
UndefinedInstruction and changes nothing else. -/
def Obligations.UndefinedOpcodesRaise : Prop :=
  ∀ (s t : State) (w : Word),
    t = { s with faultMark := some (.undefinedInstruction s.pc w) } →
    exec (.undefined00000 w) s = .next t ∧ exec (.undefined01110 w) s = .next t ∧
    exec (.undefined01111 w) s = .next t ∧ exec (.undefined10110 w) s = .next t ∧
    exec (.undefined10111 w) s = .next t ∧ exec (.undefined11110 w) s = .next t
end

