-- ==== Sys2Proof/Laws/Decode.lean ====
section
/-! SUPPORT. The bits that the decoder looks at, from the value of the opcode or of a 3-bit field:
cite these and simplify `decode`, instead of splitting on the word. And what the assembler's operand
checks answer. -/

namespace Sys2Proof

/-- The opcode gives bits 15 to 11 (30_encoding.md R61). -/
theorem opcodeBits_bits {w : Word} {op : BitVec 5} (h : opcodeBits w = op) :
    w[15] = op[4] ∧ w[14] = op[3] ∧ w[13] = op[2] ∧ w[12] = op[1] ∧ w[11] = op[0] := by
  subst h
  simp [opcodeBits]

/-- The lowest field gives bits 2 to 0 (30_encoding.md R67). -/
theorem lowField_bits {w : Word} {cond : BitVec 3} (h : w.extractLsb' 0 3 = cond) :
    w[2] = cond[2] ∧ w[1] = cond[1] ∧ w[0] = cond[0] := by
  subst h
  simp

/-- A register field is the register whose number its bits are (30_encoding.md R62). -/
theorem regField_eq {w : Word} {lo : Nat} {r : Reg} (h : r.val = (w.extractLsb' lo 3).toNat) :
    regField w lo = r := Fin.ext h.symm

/-- A register number is kept, exactly when it names a register (30_encoding.md R78). -/
theorem asmReg_eq_some {n : Nat} {r : Reg} : asmReg n = some r ↔ r.val = n := by
  unfold asmReg
  split
  · simp only [Option.some.injEq]
    exact ⟨fun h => congrArg Fin.val h.symm, fun h => Fin.ext h.symm⟩
  · simp only [reduceCtorEq, false_iff]
    omega

/-- An immediate is kept, exactly when it fits its field unsigned (30_encoding.md R78). -/
theorem asmImm_eq_some {k : Nat} {n : Int} {b : BitVec k} :
    asmImm k n = some b ↔ (b.toNat : Int) = n := by
  have hb := b.isLt
  have hcast : ((2 ^ k : Nat) : Int) = 2 ^ k := by norm_num
  unfold asmImm
  constructor
  · intro h
    split at h
    · rename_i hn
      cases h
      rw [BitVec.toNat_ofInt, Int.emod_eq_of_lt hn.1 (by omega)]
      omega
    · cases h
  · rintro rfl
    rw [if_pos ⟨by omega, by omega⟩, BitVec.ofInt_natCast, BitVec.ofNat_toNat,
      BitVec.setWidth_eq]

end Sys2Proof
end

