-- ==== Sys2Proof/Laws/State.lean ====
section
/-! SUPPORT. One lemma for each field of the state under each update, all true by unfolding, so that no
proof unfolds a record update; and reading a register after writing one. -/

namespace Sys2Proof.Machine

@[simp] theorem State.setReg_regs (s : State) (i : Reg) (v : Word) : (s.setReg i v).regs = s.regs.set i.val v := rfl
@[simp] theorem State.setReg_pc (s : State) (i : Reg) (v : Word) : (s.setReg i v).pc = s.pc := rfl
@[simp] theorem State.setReg_lr (s : State) (i : Reg) (v : Word) : (s.setReg i v).lr = s.lr := rfl
@[simp] theorem State.setReg_sp (s : State) (i : Reg) (v : Word) : (s.setReg i v).sp = s.sp := rfl
@[simp] theorem State.setReg_flags (s : State) (i : Reg) (v : Word) : (s.setReg i v).flags = s.flags := rfl
@[simp] theorem State.setReg_mem (s : State) (i : Reg) (v : Word) : (s.setReg i v).mem = s.mem := rfl
@[simp] theorem State.setReg_imem (s : State) (i : Reg) (v : Word) : (s.setReg i v).imem = s.imem := rfl
@[simp] theorem State.setReg_text (s : State) (i : Reg) (v : Word) : (s.setReg i v).text = s.text := rfl
@[simp] theorem State.setReg_params (s : State) (i : Reg) (v : Word) : (s.setReg i v).params = s.params := rfl
@[simp] theorem State.setReg_faultMark (s : State) (i : Reg) (v : Word) : (s.setReg i v).faultMark = s.faultMark := rfl

@[simp] theorem State.setPc_regs (s : State) (t : Word) : (s.setPc t).regs = s.regs := rfl
@[simp] theorem State.setPc_pc (s : State) (t : Word) : (s.setPc t).pc = t := rfl
@[simp] theorem State.setPc_lr (s : State) (t : Word) : (s.setPc t).lr = s.lr := rfl
@[simp] theorem State.setPc_sp (s : State) (t : Word) : (s.setPc t).sp = s.sp := rfl
@[simp] theorem State.setPc_flags (s : State) (t : Word) : (s.setPc t).flags = s.flags := rfl
@[simp] theorem State.setPc_mem (s : State) (t : Word) : (s.setPc t).mem = s.mem := rfl
@[simp] theorem State.setPc_imem (s : State) (t : Word) : (s.setPc t).imem = s.imem := rfl
@[simp] theorem State.setPc_text (s : State) (t : Word) : (s.setPc t).text = s.text := rfl
@[simp] theorem State.setPc_params (s : State) (t : Word) : (s.setPc t).params = s.params := rfl
@[simp] theorem State.setPc_faultMark (s : State) (t : Word) : (s.setPc t).faultMark = s.faultMark := rfl
@[simp] theorem State.setPc_reg (s : State) (t : Word) (j : Reg) : (s.setPc t).reg j = s.reg j := rfl

@[simp] theorem State.setLr_regs (s : State) (v : Word) : (s.setLr v).regs = s.regs := rfl
@[simp] theorem State.setLr_pc (s : State) (v : Word) : (s.setLr v).pc = s.pc := rfl
@[simp] theorem State.setLr_lr (s : State) (v : Word) : (s.setLr v).lr = v := rfl
@[simp] theorem State.setLr_sp (s : State) (v : Word) : (s.setLr v).sp = s.sp := rfl
@[simp] theorem State.setLr_flags (s : State) (v : Word) : (s.setLr v).flags = s.flags := rfl
@[simp] theorem State.setLr_mem (s : State) (v : Word) : (s.setLr v).mem = s.mem := rfl
@[simp] theorem State.setLr_imem (s : State) (v : Word) : (s.setLr v).imem = s.imem := rfl
@[simp] theorem State.setLr_text (s : State) (v : Word) : (s.setLr v).text = s.text := rfl
@[simp] theorem State.setLr_params (s : State) (v : Word) : (s.setLr v).params = s.params := rfl
@[simp] theorem State.setLr_faultMark (s : State) (v : Word) : (s.setLr v).faultMark = s.faultMark := rfl
@[simp] theorem State.setLr_reg (s : State) (v : Word) (j : Reg) : (s.setLr v).reg j = s.reg j := rfl

@[simp] theorem State.setSp_regs (s : State) (v : Word) : (s.setSp v).regs = s.regs := rfl
@[simp] theorem State.setSp_pc (s : State) (v : Word) : (s.setSp v).pc = s.pc := rfl
@[simp] theorem State.setSp_lr (s : State) (v : Word) : (s.setSp v).lr = s.lr := rfl
@[simp] theorem State.setSp_sp (s : State) (v : Word) : (s.setSp v).sp = v := rfl
@[simp] theorem State.setSp_flags (s : State) (v : Word) : (s.setSp v).flags = s.flags := rfl
@[simp] theorem State.setSp_mem (s : State) (v : Word) : (s.setSp v).mem = s.mem := rfl
@[simp] theorem State.setSp_imem (s : State) (v : Word) : (s.setSp v).imem = s.imem := rfl
@[simp] theorem State.setSp_text (s : State) (v : Word) : (s.setSp v).text = s.text := rfl
@[simp] theorem State.setSp_params (s : State) (v : Word) : (s.setSp v).params = s.params := rfl
@[simp] theorem State.setSp_faultMark (s : State) (v : Word) : (s.setSp v).faultMark = s.faultMark := rfl
@[simp] theorem State.setSp_reg (s : State) (v : Word) (j : Reg) : (s.setSp v).reg j = s.reg j := rfl

@[simp] theorem State.setFlags_regs (s : State) (f : Flags) : (s.setFlags f).regs = s.regs := rfl
@[simp] theorem State.setFlags_pc (s : State) (f : Flags) : (s.setFlags f).pc = s.pc := rfl
@[simp] theorem State.setFlags_lr (s : State) (f : Flags) : (s.setFlags f).lr = s.lr := rfl
@[simp] theorem State.setFlags_sp (s : State) (f : Flags) : (s.setFlags f).sp = s.sp := rfl
@[simp] theorem State.setFlags_flags (s : State) (f : Flags) : (s.setFlags f).flags = f := rfl
@[simp] theorem State.setFlags_mem (s : State) (f : Flags) : (s.setFlags f).mem = s.mem := rfl
@[simp] theorem State.setFlags_imem (s : State) (f : Flags) : (s.setFlags f).imem = s.imem := rfl
@[simp] theorem State.setFlags_text (s : State) (f : Flags) : (s.setFlags f).text = s.text := rfl
@[simp] theorem State.setFlags_params (s : State) (f : Flags) : (s.setFlags f).params = s.params := rfl
@[simp] theorem State.setFlags_faultMark (s : State) (f : Flags) : (s.setFlags f).faultMark = s.faultMark := rfl
@[simp] theorem State.setFlags_reg (s : State) (f : Flags) (j : Reg) : (s.setFlags f).reg j = s.reg j := rfl

@[simp] theorem State.setZ_regs (s : State) (b : Bool) : (s.setZ b).regs = s.regs := rfl
@[simp] theorem State.setZ_pc (s : State) (b : Bool) : (s.setZ b).pc = s.pc := rfl
@[simp] theorem State.setZ_lr (s : State) (b : Bool) : (s.setZ b).lr = s.lr := rfl
@[simp] theorem State.setZ_sp (s : State) (b : Bool) : (s.setZ b).sp = s.sp := rfl
@[simp] theorem State.setZ_flags (s : State) (b : Bool) : (s.setZ b).flags = { s.flags with z := b } := rfl
@[simp] theorem State.setZ_mem (s : State) (b : Bool) : (s.setZ b).mem = s.mem := rfl
@[simp] theorem State.setZ_imem (s : State) (b : Bool) : (s.setZ b).imem = s.imem := rfl
@[simp] theorem State.setZ_text (s : State) (b : Bool) : (s.setZ b).text = s.text := rfl
@[simp] theorem State.setZ_params (s : State) (b : Bool) : (s.setZ b).params = s.params := rfl
@[simp] theorem State.setZ_faultMark (s : State) (b : Bool) : (s.setZ b).faultMark = s.faultMark := rfl
@[simp] theorem State.setZ_reg (s : State) (b : Bool) (j : Reg) : (s.setZ b).reg j = s.reg j := rfl

@[simp] theorem State.advance_regs (s : State) : (s.advance).regs = s.regs := rfl
@[simp] theorem State.advance_pc (s : State) : (s.advance).pc = s.pc + 1 := rfl
@[simp] theorem State.advance_lr (s : State) : (s.advance).lr = s.lr := rfl
@[simp] theorem State.advance_sp (s : State) : (s.advance).sp = s.sp := rfl
@[simp] theorem State.advance_flags (s : State) : (s.advance).flags = s.flags := rfl
@[simp] theorem State.advance_mem (s : State) : (s.advance).mem = s.mem := rfl
@[simp] theorem State.advance_imem (s : State) : (s.advance).imem = s.imem := rfl
@[simp] theorem State.advance_text (s : State) : (s.advance).text = s.text := rfl
@[simp] theorem State.advance_params (s : State) : (s.advance).params = s.params := rfl
@[simp] theorem State.advance_faultMark (s : State) : (s.advance).faultMark = s.faultMark := rfl
@[simp] theorem State.advance_reg (s : State) (j : Reg) : (s.advance).reg j = s.reg j := rfl

@[simp] theorem State.raise_regs (s : State) (f : Fault) : (s.raise f).regs = s.regs := rfl
@[simp] theorem State.raise_pc (s : State) (f : Fault) : (s.raise f).pc = s.pc := rfl
@[simp] theorem State.raise_lr (s : State) (f : Fault) : (s.raise f).lr = s.lr := rfl
@[simp] theorem State.raise_sp (s : State) (f : Fault) : (s.raise f).sp = s.sp := rfl
@[simp] theorem State.raise_flags (s : State) (f : Fault) : (s.raise f).flags = s.flags := rfl
@[simp] theorem State.raise_mem (s : State) (f : Fault) : (s.raise f).mem = s.mem := rfl
@[simp] theorem State.raise_imem (s : State) (f : Fault) : (s.raise f).imem = s.imem := rfl
@[simp] theorem State.raise_text (s : State) (f : Fault) : (s.raise f).text = s.text := rfl
@[simp] theorem State.raise_params (s : State) (f : Fault) : (s.raise f).params = s.params := rfl
@[simp] theorem State.raise_faultMark (s : State) (f : Fault) : (s.raise f).faultMark = some f := rfl
@[simp] theorem State.raise_reg (s : State) (f : Fault) (j : Reg) : (s.raise f).reg j = s.reg j := rfl

/-- Reading a register after writing one. -/
@[simp] theorem State.setReg_reg (s : State) (i j : Reg) (v : Word) :
    (s.setReg i v).reg j = if i = j then v else s.reg j := by
  simp only [State.setReg, State.reg, Vector.getElem_set, Fin.ext_iff]

@[simp] theorem State.nxt_eq (s : State) : s.nxt = s.pc + 1 := rfl

/-- Two states with the same registers have the same register file. -/
theorem regs_ext {s t : State} (h : ∀ r : Reg, s.reg r = t.reg r) : s.regs = t.regs := by
  apply Vector.ext
  intro i hi
  exact h ⟨i, hi⟩

end Sys2Proof.Machine
end

