-- ==== Sys2Proof/Laws/Flags.lean ====
section
/-! SUPPORT. What the adder gives, said once in exact integers (40_data_manipulation.md R100): cite
these instead of unfolding the adder. And what each shared end of an instruction answers. -/

namespace Sys2Proof.Machine

/-! ## Words as integers -/

theorem getLsbD_fifteen (x : Word) : x.getLsbD 15 = decide (32768 ≤ x.toNat) := by
  have h : x.getLsbD 15 = x.msb := by simp [BitVec.msb_eq_getLsbD_last]
  rw [h, BitVec.msb_eq_decide]

theorem toInt_cond (x : Word) :
    x.toInt = if x.toNat < 32768 then (x.toNat : Int) else (x.toNat : Int) - 65536 := by
  rw [BitVec.toInt_eq_toNat_cond]
  split <;> split <;> omega

theorem toNat_complement (y : Word) : (~~~y).toNat = 65535 - y.toNat := by
  simp [BitVec.toNat_not]

theorem toInt_complement (y : Word) : (~~~y).toInt = -1 - y.toInt := by
  have := y.isLt
  rw [toInt_cond, toInt_cond, toNat_complement]
  split <;> split <;> omega

/-! ## The adder -/

/-- The 17-bit sum of the adder is the exact sum. -/
theorem toNat_sum17 (x y : Word) (cin : Bool) :
    (x.setWidth 17 + y.setWidth 17 + (BitVec.ofBool cin).setWidth 17 : BitVec 17).toNat =
      exactSum x y cin := by
  have hx := x.isLt
  have hy := y.isLt
  cases cin <;> simp [exactSum, BitVec.toNat_add] <;> omega

theorem addWithCarry_result (x y : Word) (cin : Bool) :
    (addWithCarry x y cin).result = BitVec.ofNat 16 (exactSum x y cin) := by
  apply BitVec.eq_of_toNat_eq
  simp only [addWithCarry, BitVec.toNat_setWidth, toNat_sum17, BitVec.toNat_ofNat]

theorem addWithCarry_flags (x y : Word) (cin : Bool) :
    (addWithCarry x y cin).flags = sumFlags x y cin := by
  have hx := x.isLt
  have hy := y.isLt
  have hr : (addWithCarry x y cin).result.toNat = exactSum x y cin % 65536 := by
    rw [addWithCarry_result, BitVec.toNat_ofNat]
  have hc : (addWithCarry x y cin).flags.c = decide (65536 ≤ exactSum x y cin) := by
    have hlt : exactSum x y cin < 131072 := by
      cases cin <;> simp [exactSum] <;> omega
    simp only [addWithCarry, BitVec.getLsbD, toNat_sum17]
    rw [Nat.testBit_eq_decide_div_mod_eq]
    congr 1
    apply propext
    omega
  have hn : (addWithCarry x y cin).flags.n = decide (32768 ≤ exactSum x y cin % 65536) := by
    rw [← hr]
    exact getLsbD_fifteen _
  have hz : (addWithCarry x y cin).flags.z = decide (exactSum x y cin % 65536 = 0) := by
    rw [← hr]
    show ((addWithCarry x y cin).result == 0x0000#16) = _
    rw [beq_eq_decide]
    congr 1
    rw [BitVec.toNat_eq]
    rfl
  have hv : (addWithCarry x y cin).flags.v = outsideSigned (x.toInt + y.toInt + cin.toNat) := by
    show ((x.getLsbD 15 == y.getLsbD 15) &&
      ((addWithCarry x y cin).result.getLsbD 15 != x.getLsbD 15)) = _
    rw [getLsbD_fifteen, getLsbD_fifteen, getLsbD_fifteen, hr, toInt_cond, toInt_cond]
    have hs : exactSum x y cin = x.toNat + y.toNat + cin.toNat := rfl
    have hcin : cin.toNat ≤ 1 := Bool.toNat_le cin
    generalize exactSum x y cin = k at hs
    rw [Bool.eq_iff_iff]
    simp only [outsideSigned, Bool.and_eq_true, beq_iff_eq, bne_iff_ne, ne_eq, decide_eq_decide,
      Bool.or_eq_true, decide_eq_true_eq]
    split <;> split <;> omega
  have heta : ∀ f g : Flags, f.c = g.c → f.v = g.v → f.n = g.n → f.z = g.z → f = g := by
    rintro ⟨⟩ ⟨⟩ h1 h2 h3 h4
    simp_all
  exact heta _ _ hc hv hn hz

/-! ## Subtraction -/

/-- The exact sum behind a subtraction: `x + ~y + cin = (x - y - NOT cin) + 65536`. -/
theorem exactSum_complement (x y : Word) (cin : Bool) :
    (exactSum x (~~~y) cin : Int) = exactDifference x y cin + 65536 := by
  have hy := y.isLt
  cases cin <;> simp [exactSum, exactDifference, -BitVec.toNat_not, toNat_complement] <;> omega

theorem subWithCarry_result (p : Params) (x y : Word) (cin : Bool) :
    (subWithCarry p x y cin).result = BitVec.ofInt 16 (exactDifference x y cin) := by
  have h := exactSum_complement x y cin
  apply BitVec.eq_of_toNat_eq
  simp only [subWithCarry, addWithCarry_result, BitVec.toNat_ofNat, BitVec.toNat_ofInt]
  omega

theorem subWithCarry_flags (p : Params) (x y : Word) (cin : Bool) :
    (subWithCarry p x y cin).flags = differenceFlags p.subCarry x y cin := by
  have h := exactSum_complement x y cin
  have hv : x.toInt + (~~~y).toInt + cin.toNat = x.toInt - y.toInt - (!cin).toNat := by
    rw [toInt_complement]
    cases cin <;> simp <;> omega
  simp only [subWithCarry, addWithCarry_flags, sumFlags, differenceFlags, hv]
  congr 1
  · cases p.subCarry
    · simp only [carryAfterSub, decide_eq_decide]
      omega
    · simp only [carryAfterSub, ← decide_not, decide_eq_decide]
      omega
  · congr 1
    apply propext
    omega
  · congr 1
    apply propext
    omega

/-! ## The ends of an instruction -/

theorem finishArith_eq (s : State) (rd : Reg) (out : AluOutput) :
    finishArith s rd out = .next { s with
      regs := s.regs.set rd.val out.result, flags := out.flags, pc := s.pc + 1 } := rfl

theorem finishCompare_eq (s : State) (out : AluOutput) :
    finishCompare s out = .next { s with flags := out.flags, pc := s.pc + 1 } := rfl

theorem finishLogic_eq (s : State) (rd : Reg) (r : Word) :
    finishLogic s rd r = .next { s with
      regs := s.regs.set rd.val r, flags := { s.flags with z := r == 0x0000#16 },
      pc := s.pc + 1 } := rfl

theorem finishMove_eq (s : State) (rd : Reg) (r : Word) :
    finishMove s rd r = .next { s with regs := s.regs.set rd.val r, pc := s.pc + 1 } := rfl

end Sys2Proof.Machine
end

