-- ==== Sys2Proof/Laws/Memory.lean ====
section
/-! SUPPORT. The laws of memory as a list of cells: a read after a write, the canonical form kept by
every operation, and equal contents in equal lists. -/

namespace Sys2Proof.Machine

/-! ## Reading after writing -/

theorem Memory.read_filter_ne (m : Memory) (a b : Nat) :
    Memory.read (m.filter (fun cell => cell.1 != a)) b =
      if b = a then unlistedWord else m.read b := by
  induction m with
  | nil => simp [Memory.read]
  | cons cell rest ih =>
    obtain ⟨k, w⟩ := cell
    by_cases hk : k = a <;> by_cases hb : b = a <;> by_cases hbk : b = k <;>
      simp_all [Memory.read]

theorem Memory.read_insertCell (m : Memory) (a : Nat) (v : Word) (b : Nat)
    (h : ∀ cell ∈ m, cell.1 ≠ a) :
    (Memory.insertCell a v m).read b = if b = a then v else m.read b := by
  induction m with
  | nil => simp [Memory.insertCell, Memory.read]
  | cons cell rest ih =>
    obtain ⟨k, w⟩ := cell
    have hk : k ≠ a := h (k, w) (by simp)
    have hrest := ih (fun c hc => h c (by simp [hc]))
    by_cases hlt : a < k
    · simp [Memory.insertCell, hlt, Memory.read]
    · by_cases hbk : b = k
      · subst hbk
        simp [Memory.insertCell, hlt, Memory.read, hk]
      · simp [Memory.insertCell, hlt, Memory.read, hbk, hrest]

/-- A read after a write gives the word written there and what was there elsewhere; it holds of
every list, canonical or not. -/
theorem Memory.read_write (m : Memory) (a : Nat) (v : Word) (b : Nat) :
    (m.write a v).read b = if b = a then v else m.read b := by
  by_cases hv : v = unlistedWord
  · simp [Memory.write, hv, Memory.read_filter_ne]
  · have h : ∀ cell ∈ m.filter (fun cell => cell.1 != a), cell.1 ≠ a := by
      intro cell hcell
      simpa using (List.mem_filter.mp hcell).2
    simp only [Memory.write, hv, if_false, Memory.read_insertCell _ _ _ _ h,
      Memory.read_filter_ne]
    split <;> rfl

/-! ## The canonical form -/

theorem Memory.wf_cons {a : Nat} {w : Word} {rest : Memory} :
    Memory.wf ((a, w) :: rest) = true ↔
      a < 65536 ∧ w ≠ unlistedWord ∧ (∀ cell ∈ rest, a < cell.1) ∧ Memory.wf rest = true := by
  simp [Memory.wf, and_assoc]

theorem Memory.wf_filter {m : Memory} (h : m.wf = true) (keep : Nat × Word → Bool) :
    Memory.wf (m.filter keep) = true := by
  induction m with
  | nil => rfl
  | cons cell rest ih =>
    obtain ⟨k, w⟩ := cell
    obtain ⟨hk, hw, hlt, hrest⟩ := Memory.wf_cons.mp h
    rw [List.filter_cons]
    split
    · exact Memory.wf_cons.mpr
        ⟨hk, hw, fun c hc => hlt c (List.mem_filter.mp hc).1, ih hrest⟩
    · exact ih hrest

theorem Memory.mem_insertCell {a : Nat} {v : Word} {m : Memory} {cell : Nat × Word}
    (h : cell ∈ Memory.insertCell a v m) : cell = (a, v) ∨ cell ∈ m := by
  induction m with
  | nil => simpa [Memory.insertCell] using h
  | cons head rest ih =>
    obtain ⟨k, w⟩ := head
    simp only [Memory.insertCell] at h
    split at h
    · simpa using h
    · rcases List.mem_cons.mp h with rfl | h
      · exact .inr (by simp)
      · rcases ih h with h | h
        · exact .inl h
        · exact .inr (by simp [h])

theorem Memory.wf_insertCell {a : Nat} {v : Word} {m : Memory} (h : m.wf = true)
    (ha : a < 65536) (hv : v ≠ unlistedWord) (hne : ∀ cell ∈ m, cell.1 ≠ a) :
    (Memory.insertCell a v m).wf = true := by
  induction m with
  | nil => simp [Memory.insertCell, Memory.wf, ha, hv]
  | cons head rest ih =>
    obtain ⟨k, w⟩ := head
    obtain ⟨hk, hw, hlt, hrest⟩ := Memory.wf_cons.mp h
    have hka : k ≠ a := hne (k, w) (by simp)
    simp only [Memory.insertCell]
    split
    · rename_i hak
      refine Memory.wf_cons.mpr ⟨ha, hv, ?_, h⟩
      intro c hc
      rcases List.mem_cons.mp hc with rfl | hc
      · exact hak
      · exact Nat.lt_trans hak (hlt c hc)
    · refine Memory.wf_cons.mpr ⟨hk, hw, ?_, ih hrest (fun c hc => hne c (by simp [hc]))⟩
      intro c hc
      rcases Memory.mem_insertCell hc with rfl | hc
      · show k < a
        omega
      · exact hlt c hc

/-- A write keeps the canonical form. -/
theorem Memory.wf_write {m : Memory} (h : m.wf = true) {a : Nat} (ha : a < 65536) (v : Word) :
    (m.write a v).wf = true := by
  have hfilter := Memory.wf_filter h (fun cell => cell.1 != a)
  by_cases hv : v = unlistedWord
  · simpa [Memory.write, hv] using hfilter
  · simp only [Memory.write, hv, if_false]
    refine Memory.wf_insertCell hfilter ha hv ?_
    intro cell hcell
    simpa using (List.mem_filter.mp hcell).2

/-- Loading words keeps the canonical form. -/
theorem Memory.wf_load {m : Memory} (h : m.wf = true) (words : List (Word × Word)) :
    (m.load words).wf = true := by
  induction words generalizing m with
  | nil => exact h
  | cons cell rest ih => exact ih (Memory.wf_write h cell.1.isLt cell.2)

/-! ## Absent cells -/

theorem Memory.read_of_lt {m : Memory} {a : Nat} (h : ∀ cell ∈ m, a < cell.1) :
    m.read a = unlistedWord := by
  induction m with
  | nil => rfl
  | cons head rest ih =>
    obtain ⟨k, w⟩ := head
    have hk : a < k := h (k, w) (by simp)
    simp only [Memory.read, if_neg (Nat.ne_of_lt hk)]
    exact ih (fun c hc => h c (by simp [hc]))

/-! ## The set TEXT -/

theorem textWf_cons {a : Nat} {rest : List Nat} :
    textWf (a :: rest) = true ↔ a < 65536 ∧ (∀ b ∈ rest, a < b) ∧ textWf rest = true := by
  simp [textWf, and_assoc]

theorem mem_insertAddress {a b : Nat} {l : List Nat} :
    b ∈ insertAddress a l ↔ b = a ∨ b ∈ l := by
  induction l with
  | nil => simp [insertAddress]
  | cons k rest ih =>
    by_cases h1 : a < k
    · simp [insertAddress, h1]
    · by_cases h2 : a = k
      · simp [insertAddress, h2]
      · simp [insertAddress, h1, h2, ih]
        tauto

theorem textWf_insertAddress {a : Nat} {l : List Nat} (ha : a < 65536) (h : textWf l = true) :
    textWf (insertAddress a l) = true := by
  induction l with
  | nil => simp [insertAddress, textWf, ha]
  | cons k rest ih =>
    obtain ⟨hk, hlt, hrest⟩ := textWf_cons.mp h
    by_cases h1 : a < k
    · simp only [insertAddress, h1, if_true]
      refine textWf_cons.mpr ⟨ha, ?_, h⟩
      intro b hb
      rcases List.mem_cons.mp hb with rfl | hb
      · exact h1
      · exact Nat.lt_trans h1 (hlt b hb)
    · by_cases h2 : a = k
      · simpa [insertAddress, h1, h2] using h
      · simp only [insertAddress, h1, h2, if_false]
        refine textWf_cons.mpr ⟨hk, ?_, ih hrest⟩
        intro b hb
        rcases mem_insertAddress.mp hb with rfl | hb
        · omega
        · exact hlt b hb

/-- TEXT holds exactly the program's addresses. -/
theorem mem_textOf {program : List (Word × Word)} {b : Nat} :
    b ∈ textOf program ↔ ∃ cell ∈ program, cell.1.toNat = b := by
  have h : ∀ l : List Nat,
      b ∈ program.foldl (fun acc cell => insertAddress cell.1.toNat acc) l ↔
        b ∈ l ∨ ∃ cell ∈ program, cell.1.toNat = b := by
    induction program with
    | nil => simp
    | cons cell rest ih =>
      intro l
      rw [List.foldl_cons, ih, mem_insertAddress]
      simp only [List.mem_cons, exists_eq_or_imp, eq_comm (a := b)]
      tauto
  simpa [textOf] using h []

theorem textWf_textOf (program : List (Word × Word)) : textWf (textOf program) = true := by
  have h : ∀ l : List Nat, textWf l = true →
      textWf (program.foldl (fun acc cell => insertAddress cell.1.toNat acc) l) = true := by
    induction program with
    | nil => simp
    | cons cell rest ih => intro l hl; exact ih _ (textWf_insertAddress cell.1.isLt hl)
  exact h [] rfl

/-- Loading leaves an address alone that no loaded word has. -/
theorem Memory.read_load_of_notMem {words : List (Word × Word)} {a : Word}
    (h : a ∉ words.map Prod.fst) (m : Memory) : (m.load words).read a.toNat = m.read a.toNat := by
  induction words generalizing m with
  | nil => rfl
  | cons cell rest ih =>
    simp only [List.map_cons, List.mem_cons, not_or] at h
    have hne : a.toNat ≠ cell.1.toNat := fun heq => h.1 (BitVec.eq_of_toNat_eq heq)
    exact (ih h.2 _).trans (by rw [Memory.read_write, if_neg hne])

/-- Loading puts each word of a list without repeated addresses at its address. -/
theorem Memory.read_load_of_mem {words : List (Word × Word)} (hn : (words.map Prod.fst).Nodup)
    {a w : Word} (h : (a, w) ∈ words) (m : Memory) : (m.load words).read a.toNat = w := by
  induction words generalizing m with
  | nil => cases h
  | cons cell rest ih =>
    rw [List.map_cons, List.nodup_cons] at hn
    rcases List.mem_cons.mp h with rfl | h
    · exact (Memory.read_load_of_notMem hn.1 _).trans (by simp [Memory.read_write])
    · exact ih hn.2 h _

end Sys2Proof.Machine
end

