-- ==== Sys2Proof/Laws/Operands.lean ====
section
/-! SUPPORT. What each operand form gives, said once in exact integers. -/

namespace Sys2Proof.Machine

/-- A branch goes to its exact target modulo 65536 (43_control_transfer.md R150). -/
theorem branchTarget_eq (s : State) (imm8 : BitVec 8) :
    s.branchTarget imm8 = BitVec.ofInt 16 (exactTarget s.params s.pc imm8) := by
  apply BitVec.eq_of_toNat_eq
  have hpc := s.pc.isLt
  have hdisp : (imm8.signExtend 16).toNat = imm8.toInt % 65536 := by
    have h := BitVec.toInt_signExtend_of_le (x := imm8) (v := 16) (by decide)
    rw [BitVec.toInt_eq_toNat_cond] at h
    split at h <;> omega
  cases hbase : s.params.branchBase <;>
    simp [State.branchTarget, branchBaseAddr, exactTarget, displacement, hbase, BitVec.toNat_add,
      BitVec.toNat_ofInt] <;> omega

/-- The effective address is the sum modulo 65536 (42_data_transfer.md R140). -/
theorem effectiveAddress_eq (s : State) (ra ro : Reg) :
    s.effectiveAddress ra ro =
      BitVec.ofNat 16 (((s.reg ra).toNat + (s.reg ro).toNat) % 65536) := by
  apply BitVec.eq_of_toNat_eq
  simp [State.effectiveAddress, BitVec.toNat_add]

/-- LUI's result: the immediate above the kept low byte (41_byte_immediate.md R132). -/
theorem upperByte_eq (imm8 : BitVec 8) (x : Word) :
    imm8 ++ x.extractLsb' 0 8 = BitVec.ofNat 16 (imm8.toNat * 256 + x.toNat % 256) := by
  apply BitVec.eq_of_toNat_eq
  have h := imm8.isLt
  simp only [BitVec.toNat_append, BitVec.extractLsb'_toNat, BitVec.toNat_ofNat,
    Nat.shiftRight_zero, Nat.shiftLeft_eq]
  rw [Nat.mul_comm, ← Nat.two_pow_add_eq_or_of_lt (i := 8) (by omega)]
  omega

/-- LLI's result: the kept high byte above the immediate (41_byte_immediate.md R133). -/
theorem lowerByte_eq (imm8 : BitVec 8) (x : Word) :
    x.extractLsb' 8 8 ++ imm8 = BitVec.ofNat 16 (x.toNat / 256 * 256 + imm8.toNat) := by
  apply BitVec.eq_of_toNat_eq
  have h := imm8.isLt
  have hx := x.isLt
  simp only [BitVec.toNat_append, BitVec.extractLsb'_toNat, BitVec.toNat_ofNat,
    Nat.shiftRight_eq_div_pow, Nat.shiftLeft_eq]
  rw [Nat.mul_comm, ← Nat.two_pow_add_eq_or_of_lt (i := 8) (by omega)]
  omega

end Sys2Proof.Machine
end

