-- ==== Sys2Proof/Laws/Ops.lean ====
section
/-! SUPPORT. What each shared operation on memory can answer, said once. -/

namespace Sys2Proof.Machine

/-- A read answers the word, exactly at a backed address. -/
theorem memRead_eq_ok {s : State} {addr v : Word} :
    s.memRead addr = .ok v ↔ memValid s.params addr = true ∧ v = s.mem.read addr.toNat := by
  cases h : memValid s.params addr <;> simp [State.memRead, h, eq_comm]

/-- A read fails exactly at an unbacked address, with a memory fault. -/
theorem memRead_eq_error {s : State} {addr : Word} {f : Fault} :
    s.memRead addr = .error f ↔
      memValid s.params addr = false ∧ f = .memoryFault s.pc addr := by
  cases h : memValid s.params addr <;> simp [State.memRead, h, eq_comm]

/-- A write changes one word of memory, exactly at a backed address outside TEXT. -/
theorem memWrite_eq_ok {s t : State} {addr v : Word} :
    s.memWrite addr v = .ok t ↔
      memValid s.params addr = true ∧ s.isText addr = false ∧
        t = { s with mem := s.mem.write addr.toNat v } := by
  cases h : memValid s.params addr <;> cases h' : s.isText addr <;>
    simp [State.memWrite, h, h', eq_comm]

/-- A write fails with a memory fault at an unbacked address, and is refused at a backed one that
holds program text. -/
theorem memWrite_eq_error {s : State} {addr v : Word} {f : Fault} :
    s.memWrite addr v = .error f ↔
      (memValid s.params addr = false ∧ f = .memoryFault s.pc addr) ∨
        (memValid s.params addr = true ∧ s.isText addr = true ∧
          f = .textWriteRefused s.pc addr) := by
  cases h : memValid s.params addr <;> cases h' : s.isText addr <;>
    simp [State.memWrite, h, h', eq_comm]

/-- An instruction with one access ends in a next state: its effect and `PC <- nxt`, or the raise of
its fault. -/
theorem finishAccess_eq_next {s t : State} {x : Except Fault State} :
    finishAccess s x = .next t ↔
      (∃ u, x = .ok u ∧ t = u.advance) ∨ (∃ f, x = .error f ∧ t = s.raise f) := by
  cases x <;> simp [finishAccess, eq_comm]

/-- All that an instruction with one load can do: complete with the word read, or raise. -/
theorem finishAccess_memRead {s t : State} {addr : Word} {after : Word → State} :
    finishAccess s ((s.memRead addr).map after) = .next t ↔
      (memValid s.params addr = true ∧ t = (after (s.mem.read addr.toNat)).advance) ∨
        (memValid s.params addr = false ∧ t = s.raise (.memoryFault s.pc addr)) := by
  cases h : memValid s.params addr <;>
    simp [State.memRead, h, finishAccess, Except.map, eq_comm]

/-- All that an instruction with one store and a further effect `after` can do: complete with both,
or raise one of two faults. -/
theorem finishAccess_memWrite_map {s t : State} {addr v : Word} {after : State → State} :
    finishAccess s ((s.memWrite addr v).map after) = .next t ↔
      (memValid s.params addr = true ∧ s.isText addr = false ∧
          t = (after { s with mem := s.mem.write addr.toNat v }).advance) ∨
        (memValid s.params addr = false ∧ t = s.raise (.memoryFault s.pc addr)) ∨
        (memValid s.params addr = true ∧ s.isText addr = true ∧
          t = s.raise (.textWriteRefused s.pc addr)) := by
  cases h : memValid s.params addr <;> cases h' : s.isText addr <;>
    simp [State.memWrite, h, h', finishAccess, Except.map, eq_comm]

/-- The same for an instruction whose only effect is the store. -/
theorem finishAccess_memWrite {s t : State} {addr v : Word} :
    finishAccess s (s.memWrite addr v) = .next t ↔
      (memValid s.params addr = true ∧ s.isText addr = false ∧
          t = ({ s with mem := s.mem.write addr.toNat v } : State).advance) ∨
        (memValid s.params addr = false ∧ t = s.raise (.memoryFault s.pc addr)) ∨
        (memValid s.params addr = true ∧ s.isText addr = true ∧
          t = s.raise (.textWriteRefused s.pc addr)) := by
  cases h : memValid s.params addr <;> cases h' : s.isText addr <;>
    simp [State.memWrite, h, h', finishAccess, eq_comm]

/-- Fetch decodes the word at PC, exactly when its address is backed. -/
theorem fetch_eq_ok {s : State} {i : Instr} :
    s.fetch = .ok i ↔ s.fetchValid = true ∧ i = decode s.params s.fetchedWord := by
  cases h : s.fetchValid <;> simp [State.fetch, h, eq_comm]

theorem fetch_eq_error {s : State} {f : Fault} :
    s.fetch = .error f ↔ s.fetchValid = false ∧ f = .memoryFault s.pc s.pc := by
  cases h : s.fetchValid <;> simp [State.fetch, h, eq_comm]

/-- A placed word is the word that the next fetch reads. -/
theorem fetchedWord_placeWord (s : State) (w : Word) : (s.placeWord w).fetchedWord = w := by
  cases h : s.params.memOrg <;> simp [State.placeWord, State.fetchedWord, h, Memory.read_write]

end Sys2Proof.Machine
end

