-- ==== Sys2Proof/Laws/PerInstr.lean ====
section
/-! SUPPORT. Per-instruction lemmas about instructions as encoded terms. Family `OpcodeOf`: the word
of a well-formed instruction carries, in bits 15 to 11, the opcode of its row
(30_encoding.md R61, R75). -/

namespace Sys2Proof.Laws.OpcodeOf

/-- Bits 15 to 11 of the encoded instruction are its row's opcode, whatever the parameters. -/
def Statement (i : Instr) : Prop :=
  ∀ p : Params, i.wellFormed = true → opcodeBits (encode p i) = i.opcode

theorem opcodeBits_encodeA (op : BitVec 5) (rb ra rd : BitVec 3) :
    opcodeBits (encodeA op rb ra rd) = op := by
  unfold opcodeBits encodeA
  repeat' refine (BitVec.extractLsb'_append_eq_of_le (by decide)).trans ?_
  exact BitVec.extractLsb'_eq_self

theorem opcodeBits_encodeImm5 (op imm5 : BitVec 5) (ra rd : Reg) :
    opcodeBits (encodeImm5 op imm5 ra rd) = op := by
  unfold opcodeBits encodeImm5
  repeat' refine (BitVec.extractLsb'_append_eq_of_le (by decide)).trans ?_
  exact BitVec.extractLsb'_eq_self

theorem opcodeBits_encodeImm8 (op : BitVec 5) (imm8 : BitVec 8) (low : BitVec 3) :
    opcodeBits (encodeImm8 op imm8 low) = op := by
  unfold opcodeBits encodeImm8
  repeat' refine (BitVec.extractLsb'_append_eq_of_le (by decide)).trans ?_
  exact BitVec.extractLsb'_eq_self

theorem opcodeBits_encodeC (ls : BitVec 1) (ro ra rd : Reg) :
    opcodeBits (encodeC ls ro ra rd) = 0b11101#5 := by
  unfold opcodeBits encodeC
  repeat' refine (BitVec.extractLsb'_append_eq_of_le (by decide)).trans ?_
  rfl

theorem opcodeBits_encodeE (p : Params) (pop : Bool) (operand : StackOperand) :
    opcodeBits (encodeE p pop operand) = 0b11100#5 := by
  cases operand <;>
    (unfold opcodeBits encodeE
     repeat' refine (BitVec.extractLsb'_append_eq_of_le (by decide)).trans ?_
     rfl)

theorem add (rd : Reg) (ra : Reg) (rb : Reg) : Statement (.add rd ra rb) :=
  fun _ _ => opcodeBits_encodeA _ _ _ _

theorem addi (rd : Reg) (ra : Reg) (imm5 : BitVec 5) : Statement (.addi rd ra imm5) :=
  fun _ _ => opcodeBits_encodeImm5 _ _ _ _

theorem addib (rd : Reg) (imm8 : BitVec 8) : Statement (.addib rd imm8) :=
  fun _ _ => opcodeBits_encodeImm8 _ _ _

theorem adc (rd : Reg) (ra : Reg) (rb : Reg) : Statement (.adc rd ra rb) :=
  fun _ _ => opcodeBits_encodeA _ _ _ _

theorem adci (rd : Reg) (ra : Reg) (imm5 : BitVec 5) : Statement (.adci rd ra imm5) :=
  fun _ _ => opcodeBits_encodeImm5 _ _ _ _

theorem neg (rd : Reg) : Statement (.neg rd) :=
  fun _ _ => opcodeBits_encodeA _ _ _ _

theorem sub (rd : Reg) (ra : Reg) (rb : Reg) : Statement (.sub rd ra rb) :=
  fun _ _ => opcodeBits_encodeA _ _ _ _

theorem subi (rd : Reg) (ra : Reg) (imm5 : BitVec 5) : Statement (.subi rd ra imm5) :=
  fun _ _ => opcodeBits_encodeImm5 _ _ _ _

theorem subib (rd : Reg) (imm8 : BitVec 8) : Statement (.subib rd imm8) :=
  fun _ _ => opcodeBits_encodeImm8 _ _ _

theorem suc (rd : Reg) (ra : Reg) (rb : Reg) : Statement (.suc rd ra rb) :=
  fun _ _ => opcodeBits_encodeA _ _ _ _

theorem suci (rd : Reg) (ra : Reg) (imm5 : BitVec 5) : Statement (.suci rd ra imm5) :=
  fun _ _ => opcodeBits_encodeImm5 _ _ _ _

theorem cmp (ra : Reg) (rb : Reg) : Statement (.cmp ra rb) :=
  fun _ _ => opcodeBits_encodeA _ _ _ _

theorem and (rd : Reg) (ra : Reg) (rb : Reg) : Statement (.and rd ra rb) :=
  fun _ _ => opcodeBits_encodeA _ _ _ _

theorem or (rd : Reg) (ra : Reg) (rb : Reg) : Statement (.or rd ra rb) :=
  fun _ _ => opcodeBits_encodeA _ _ _ _

theorem xor (rd : Reg) (ra : Reg) (rb : Reg) : Statement (.xor rd ra rb) :=
  fun _ _ => opcodeBits_encodeA _ _ _ _

theorem not (rd : Reg) (ra : Reg) : Statement (.not rd ra) :=
  fun _ _ => opcodeBits_encodeA _ _ _ _

theorem nand (rd : Reg) (ra : Reg) (rb : Reg) : Statement (.nand rd ra rb) :=
  fun _ _ => opcodeBits_encodeA _ _ _ _

theorem nor (rd : Reg) (ra : Reg) (rb : Reg) : Statement (.nor rd ra rb) :=
  fun _ _ => opcodeBits_encodeA _ _ _ _

theorem lsl (rd : Reg) (ra : Reg) (imm4 : BitVec 4) : Statement (.lsl rd ra imm4) :=
  fun _ _ => opcodeBits_encodeImm5 _ _ _ _

theorem lsr (rd : Reg) (ra : Reg) (imm4 : BitVec 4) : Statement (.lsr rd ra imm4) :=
  fun _ _ => opcodeBits_encodeImm5 _ _ _ _

theorem asr (rd : Reg) (ra : Reg) (imm4 : BitVec 4) : Statement (.asr rd ra imm4) :=
  fun _ _ => opcodeBits_encodeImm5 _ _ _ _

theorem ldw (rd : Reg) (ra : Reg) (ro : Reg) : Statement (.ldw rd ra ro) :=
  fun _ _ => opcodeBits_encodeC _ _ _ _

theorem sdw (rd : Reg) (ra : Reg) (ro : Reg) : Statement (.sdw rd ra ro) :=
  fun _ _ => opcodeBits_encodeC _ _ _ _

theorem lui (rd : Reg) (imm8 : BitVec 8) : Statement (.lui rd imm8) :=
  fun _ _ => opcodeBits_encodeImm8 _ _ _

theorem lli (rd : Reg) (imm8 : BitVec 8) : Statement (.lli rd imm8) :=
  fun _ _ => opcodeBits_encodeImm8 _ _ _

theorem br (imm8 : BitVec 8) : Statement (.br imm8) :=
  fun _ _ => opcodeBits_encodeImm8 _ _ _

theorem bne (imm8 : BitVec 8) : Statement (.bne imm8) :=
  fun _ _ => opcodeBits_encodeImm8 _ _ _

theorem be (imm8 : BitVec 8) : Statement (.be imm8) :=
  fun _ _ => opcodeBits_encodeImm8 _ _ _

theorem blt (imm8 : BitVec 8) : Statement (.blt imm8) :=
  fun _ _ => opcodeBits_encodeImm8 _ _ _

theorem bge (imm8 : BitVec 8) : Statement (.bge imm8) :=
  fun _ _ => opcodeBits_encodeImm8 _ _ _

theorem bwl (imm8 : BitVec 8) : Statement (.bwl imm8) :=
  fun _ _ => opcodeBits_encodeImm8 _ _ _

theorem ret : Statement (.ret) :=
  fun _ _ => opcodeBits_encodeImm8 _ _ _

theorem abr (ra : Reg) : Statement (.abr ra) :=
  fun _ _ => opcodeBits_encodeImm8 _ _ _

theorem push (operand : StackOperand) : Statement (.push operand) :=
  fun _ _ => opcodeBits_encodeE _ _ _

theorem pop (operand : StackOperand) : Statement (.pop operand) :=
  fun _ _ => opcodeBits_encodeE _ _ _

theorem undefined00000 (w : Word) : Statement (.undefined00000 w) :=
  fun _ h => by simpa [Instr.wellFormed, encode, Instr.opcode] using h

theorem undefined01110 (w : Word) : Statement (.undefined01110 w) :=
  fun _ h => by simpa [Instr.wellFormed, encode, Instr.opcode] using h

theorem undefined01111 (w : Word) : Statement (.undefined01111 w) :=
  fun _ h => by simpa [Instr.wellFormed, encode, Instr.opcode] using h

theorem undefined10110 (w : Word) : Statement (.undefined10110 w) :=
  fun _ h => by simpa [Instr.wellFormed, encode, Instr.opcode] using h

theorem undefined10111 (w : Word) : Statement (.undefined10111 w) :=
  fun _ h => by simpa [Instr.wellFormed, encode, Instr.opcode] using h

theorem undefined11110 (w : Word) : Statement (.undefined11110 w) :=
  fun _ h => by simpa [Instr.wellFormed, encode, Instr.opcode] using h

end Sys2Proof.Laws.OpcodeOf
end

