-- ==== Sys2Proof/Laws/Step.lean ====
section
/-! SUPPORT. What a step can do, said once: proofs about steps cite `step_eq_next` and proofs about
instructions `exec_eq_next`, and unfold neither. -/

namespace Sys2Proof.Machine

/-- A step that answers a next state starts unmarked, and is a raise of a fetch fault or the decoded
instruction. -/
theorem step_eq_next {s t : State} :
    step s = .next t ↔
      s.faultMark = none ∧
        ((s.fetchValid = false ∧ t = s.raise (.memoryFault s.pc s.pc)) ∨
          (s.fetchValid = true ∧ exec (decode s.params s.fetchedWord) s = .next t)) := by
  cases hm : s.faultMark with
  | some f => simp [step, hm]
  | none =>
    by_cases hv : s.fetchValid = true
    · simp [step, hm, State.fetch, hv]
    · simp [step, hm, State.fetch, hv, eq_comm]

/-- What one instruction may do to the state: complete with `pc` and the fields it may write, or
raise. The memory differs at one backed address outside TEXT at most. -/
inductive Effect (s : State) : State → Prop where
  /-- It completes without a store. -/
  | done (regs : Vector Word 8) (pc lr sp : Word) (flags : Flags) :
      Effect s { s with regs := regs, pc := pc, lr := lr, sp := sp, flags := flags }
  /-- It completes with a store. -/
  | stored (addr v pc sp : Word) (hvalid : memValid s.params addr = true)
      (htext : s.isText addr = false) :
      Effect s { s with mem := s.mem.write addr.toNat v, pc := pc, sp := sp }
  /-- It raises a fault. -/
  | raised (f : Fault) : Effect s (s.raise f)

theorem effect_read (s : State) (addr : Word) (after : Word → State)
    (h : ∀ v, Effect s (after v).advance) :
    ∃ t, finishAccess s ((s.memRead addr).map after) = .next t ∧ Effect s t := by
  cases hr : s.memRead addr with
  | ok v => exact ⟨_, rfl, h v⟩
  | error f => exact ⟨_, rfl, .raised f⟩

/-- Every instruction answers a next state, and that state is an `Effect` of the old one. -/
theorem exec_effect (i : Instr) (s : State) : ∃ t, exec i s = .next t ∧ Effect s t := by
  cases i
  case ldw rd ra ro => exact effect_read s _ _ (fun v => .done _ _ _ _ _)
  case pop operand =>
    refine effect_read s _ _ (fun v => ?_)
    cases operand <;> exact .done _ _ _ _ _
  case sdw rd ra ro =>
    show ∃ t, finishAccess s (s.memWrite _ _) = .next t ∧ Effect s t
    cases hw : s.memWrite (s.effectiveAddress ra ro) (s.reg rd) with
    | error f => exact ⟨_, rfl, .raised f⟩
    | ok u =>
      obtain ⟨hvalid, htext, rfl⟩ := memWrite_eq_ok.mp hw
      exact ⟨_, rfl, .stored _ _ _ _ hvalid htext⟩
  case push operand =>
    show ∃ t, finishAccess s (Except.map _ (s.memWrite _ _)) = .next t ∧ Effect s t
    cases hw : s.memWrite s.pushAddress (s.readStackOperand operand) with
    | error f => exact ⟨_, rfl, .raised f⟩
    | ok u =>
      obtain ⟨hvalid, htext, rfl⟩ := memWrite_eq_ok.mp hw
      exact ⟨_, rfl, .stored _ _ _ _ hvalid htext⟩
  case undefined00000 | undefined01110 | undefined01111 | undefined10110 | undefined10111 |
      undefined11110 => exact ⟨_, rfl, .raised _⟩
  all_goals exact ⟨_, rfl, .done _ _ _ _ _⟩

/-- A next state of an instruction is an `Effect` of the state it started from. -/
theorem exec_eq_next {i : Instr} {s t : State} (h : exec i s = .next t) : Effect s t := by
  obtain ⟨u, hu, heff⟩ := exec_effect i s
  rw [hu] at h
  cases h
  exact heff

end Sys2Proof.Machine
end

