-- ==== Sys2Proof/Tests/Slice0.lean ====
section
/-! SUPPORT. Tests. Expected values come from 95_test_vectors.md (the section is named at each group)
or from the rule named; none from the model. Then one witness for each obligation that has
hypotheses: a concrete state and operands that meet them, clause by clause. -/

namespace Sys2Proof.Tests

open Sys2Proof.Machine

/-! ## Ill-formed terms are refused (30_encoding.md R73) -/

theorem test_illformed_undefined00000 : (Instr.undefined00000 0x0800).wellFormed = false := by decide
theorem test_illformed_undefined01110 : (Instr.undefined01110 0x7800).wellFormed = false := by decide
theorem test_illformed_undefined01111 : (Instr.undefined01111 0x7000).wellFormed = false := by decide
theorem test_illformed_undefined10110 : (Instr.undefined10110 0xB800).wellFormed = false := by decide
theorem test_illformed_undefined10111 : (Instr.undefined10111 0xB000).wellFormed = false := by decide
theorem test_illformed_undefined11110 : (Instr.undefined11110 0xF800).wellFormed = false := by decide

/-! ## Decoding: every constructor from a word written out from its pattern (30_encoding.md R75,
95_test_vectors.md T1, T2), unused bits set where the row has them -/

theorem test_decode_add : decodeTableWord 16 0b00100_11_100_011_101 = some (.add 5 3 4) := by decide
theorem test_decode_addi : decodeTableWord 16 0b00101_11111_011_101 = some (.addi 5 3 31) := by decide
theorem test_decode_addib : decodeTableWord 16 0b11000_10010110_101 = some (.addib 5 150) := by decide
theorem test_decode_adc : decodeTableWord 16 0b00110_10_100_011_101 = some (.adc 5 3 4) := by decide
theorem test_decode_adci : decodeTableWord 16 0b00111_01001_011_101 = some (.adci 5 3 9) := by decide
theorem test_decode_neg : decodeTableWord 16 0b01000_00_111_111_101 = some (.neg 5) := by decide
theorem test_decode_sub : decodeTableWord 16 0b01001_01_100_011_101 = some (.sub 5 3 4) := by decide
theorem test_decode_subi : decodeTableWord 16 0b01010_01001_011_101 = some (.subi 5 3 9) := by decide
theorem test_decode_subib : decodeTableWord 16 0b11001_10010110_101 = some (.subib 5 150) := by decide
theorem test_decode_suc : decodeTableWord 16 0b01011_00_100_011_101 = some (.suc 5 3 4) := by decide
theorem test_decode_suci : decodeTableWord 16 0b01100_01001_011_101 = some (.suci 5 3 9) := by decide
theorem test_decode_cmp : decodeTableWord 16 0b01101_00_100_011_111 = some (.cmp 3 4) := by decide
theorem test_decode_and : decodeTableWord 16 0b10000_11_100_011_101 = some (.and 5 3 4) := by decide
theorem test_decode_or : decodeTableWord 16 0b10001_00_100_011_101 = some (.or 5 3 4) := by decide
theorem test_decode_xor : decodeTableWord 16 0b10010_00_100_011_101 = some (.xor 5 3 4) := by decide
theorem test_decode_not : decodeTableWord 16 0b10011_00_111_011_101 = some (.not 5 3) := by decide
theorem test_decode_nand : decodeTableWord 16 0b10100_00_100_011_101 = some (.nand 5 3 4) := by decide
theorem test_decode_nor : decodeTableWord 16 0b10101_00_100_011_101 = some (.nor 5 3 4) := by decide
theorem test_decode_lsl : decodeTableWord 16 0b00001_1_0011_011_101 = some (.lsl 5 3 3) := by decide
theorem test_decode_lsr : decodeTableWord 16 0b00010_0_0011_011_101 = some (.lsr 5 3 3) := by decide
theorem test_decode_asr : decodeTableWord 16 0b00011_0_0001_111_000 = some (.asr 0 7 1) := by decide
theorem test_decode_ldw : decodeTableWord 16 0b11101_1_1_010_011_101 = some (.ldw 5 3 2) := by decide
theorem test_decode_sdw : decodeTableWord 16 0b11101_0_0_010_011_101 = some (.sdw 5 3 2) := by decide
theorem test_decode_lui : decodeTableWord 16 0b11010_10010110_101 = some (.lui 5 150) := by decide
theorem test_decode_lli : decodeTableWord 16 0b11011_10010110_101 = some (.lli 5 150) := by decide
theorem test_decode_br : decodeTableWord 16 0b11111_11111111_000 = some (.br 0xFF) := by decide
theorem test_decode_bne : decodeTableWord 16 0b11111_11111101_110 = some (.bne 0xFD) := by decide
theorem test_decode_be : decodeTableWord 16 0b11111_11111111_111 = some (.be 0xFF) := by decide
theorem test_decode_blt : decodeTableWord 16 0b11111_01111111_100 = some (.blt 0x7F) := by decide
theorem test_decode_bge : decodeTableWord 16 0b11111_10000000_101 = some (.bge 0x80) := by decide
theorem test_decode_bwl : decodeTableWord 16 0b11111_00001010_011 = some (.bwl 0x0A) := by decide
theorem test_decode_ret : decodeTableWord 16 0b11111_11111111_010 = some (.ret) := by decide
theorem test_decode_abr : decodeTableWord 16 0b11111_11111_011_001 = some (.abr 3) := by decide
theorem test_decode_push : decodeTableWord 16 0b11100_0_0_111111_101 = some (.push (.reg 5)) := by decide
theorem test_decode_push_rl : decodeTableWord 16 0b11100_1_0_000000_111 = some (.push .link) := by decide
theorem test_decode_pop : decodeTableWord 16 0b11100_0_1_000000_101 = some (.pop (.reg 5)) := by decide
theorem test_decode_pop_rl : decodeTableWord 16 0b11100_1_1_000000_000 = some (.pop .link) := by decide
theorem test_decode_undefined00000 : decodeTableWord 16 0b00000_11111111111 = some (.undefined00000 0b0000011111111111) := by decide
theorem test_decode_undefined01110 : decodeTableWord 16 0b01110_11111111111 = some (.undefined01110 0b0111011111111111) := by decide
theorem test_decode_undefined01111 : decodeTableWord 16 0b01111_11111111111 = some (.undefined01111 0b0111111111111111) := by decide
theorem test_decode_undefined10110 : decodeTableWord 16 0b10110_11111111111 = some (.undefined10110 0b1011011111111111) := by decide
theorem test_decode_undefined10111 : decodeTableWord 16 0b10111_11111111111 = some (.undefined10111 0b1011111111111111) := by decide
theorem test_decode_undefined11110 : decodeTableWord 16 0b11110_11111111111 = some (.undefined11110 0b1111011111111111) := by decide

/-- Under `IMM4_POS = w[10:7]` the word 0x0CDD is `LSL R5, R3, #9` (95_test_vectors.md T2). -/
theorem test_decode_imm4_high :
    decode { Params.default with imm4Pos := .high } 0x0CDD = .lsl 5 3 9 := by decide

/-- The words an assembler writes (95_test_vectors.md T1, T6.1, T10): X bits and unused fields 0. -/
theorem test_encode_words :
    encode Params.default (.neg 5) = 0x4005 ∧ encode Params.default (.cmp 3 4) = 0x6918 ∧
    encode Params.default (.sdw 5 3 2) = 0xE89D ∧ encode Params.default (.push .link) = 0xE400 ∧
    encode Params.default (.pop (.reg 5)) = 0xE205 ∧ encode Params.default .ret = 0xF802 ∧
    encode Params.default (.abr 0) = 0xF801 ∧ encode Params.default (.asr 2 1 4) = 0x190A := by
  decide

/-- A branch at 6 to 4 is 0xFFEE, or 0xFFF6 under `BRANCH_BASE = a` (95_test_vectors.md T6.1); a
distance of 128 and a register 8 are refused (30_encoding.md R78). -/
theorem test_assemble :
    (assemble Params.default 6 (.bne 4)).map (encode Params.default) = some 0xFFEE ∧
    (assemble { Params.default with branchBase := .atBranch } 6 (.bne 4)).map
      (encode Params.default) = some 0xFFF6 ∧
    assemble Params.default 0 (.br 129) = none ∧ assemble Params.default 0 (.abr 8) = none := by
  decide

/-! ## The source's 25 examples with numbers (95_test_vectors.md T1.1) -/

/-- The next state of an instruction, or the old one if it has none. -/
def after (i : Instr) (s : State) : State :=
  match exec i s with
  | .next t => t
  | _ => s

/-- The start state of 95_test_vectors.md T1.1. -/
def start : State :=
  { State.reset with
    regs := #v[0, 0, 0x0010, 0x1234, 0x0FF1, 0x0064, 0, 0]
    flags := { c := true, v := false, n := false, z := false }
    mem := [(0x1244, 0xBEEF)] }

theorem test_add : (after (.add 5 3 4) start).reg 5 = 0x2225 ∧ (after (.add 5 3 4) start).flags =
    { c := false, v := false, n := false, z := false } := by decide
theorem test_addi : (after (.addi 5 3 9) start).reg 5 = 0x123D ∧ (after (.addi 5 3 9) start).flags =
    { c := false, v := false, n := false, z := false } := by decide
theorem test_addib : (after (.addib 5 150) start).reg 5 = 0x00FA ∧ (after (.addib 5 150) start).flags =
    { c := false, v := false, n := false, z := false } := by decide
theorem test_adc : (after (.adc 5 3 4) start).reg 5 = 0x2226 ∧ (after (.adc 5 3 4) start).flags =
    { c := false, v := false, n := false, z := false } := by decide
theorem test_adci : (after (.adci 5 3 9) start).reg 5 = 0x123E ∧ (after (.adci 5 3 9) start).flags =
    { c := false, v := false, n := false, z := false } := by decide
theorem test_neg : (after (.neg 5) start).reg 5 = 0xFF9C ∧ (after (.neg 5) start).flags =
    { c := false, v := false, n := true, z := false } := by decide
theorem test_sub : (after (.sub 5 3 4) start).reg 5 = 0x0243 ∧ (after (.sub 5 3 4) start).flags =
    { c := true, v := false, n := false, z := false } := by decide
theorem test_subi : (after (.subi 5 3 9) start).reg 5 = 0x122B ∧ (after (.subi 5 3 9) start).flags =
    { c := true, v := false, n := false, z := false } := by decide
theorem test_subib : (after (.subib 5 150) start).reg 5 = 0xFFCE ∧ (after (.subib 5 150) start).flags =
    { c := false, v := false, n := true, z := false } := by decide
theorem test_suc : (after (.suc 5 3 4) start).reg 5 = 0x0243 ∧ (after (.suc 5 3 4) start).flags =
    { c := true, v := false, n := false, z := false } := by decide
theorem test_suci : (after (.suci 5 3 9) start).reg 5 = 0x122B ∧ (after (.suci 5 3 9) start).flags =
    { c := true, v := false, n := false, z := false } := by decide
theorem test_cmp : (after (.cmp 3 4) start).reg 5 = 0x0064 ∧ (after (.cmp 3 4) start).flags =
    { c := true, v := false, n := false, z := false } := by decide
theorem test_and : (after (.and 5 3 4) start).reg 5 = 0x0230 ∧ (after (.and 5 3 4) start).flags =
    { c := true, v := false, n := false, z := false } := by decide
theorem test_or : (after (.or 5 3 4) start).reg 5 = 0x1FF5 ∧ (after (.or 5 3 4) start).flags =
    { c := true, v := false, n := false, z := false } := by decide
theorem test_xor : (after (.xor 5 3 4) start).reg 5 = 0x1DC5 ∧ (after (.xor 5 3 4) start).flags =
    { c := true, v := false, n := false, z := false } := by decide
theorem test_not : (after (.not 5 3) start).reg 5 = 0xEDCB ∧ (after (.not 5 3) start).flags =
    { c := true, v := false, n := false, z := false } := by decide
theorem test_nand : (after (.nand 5 3 4) start).reg 5 = 0xFDCF ∧ (after (.nand 5 3 4) start).flags =
    { c := true, v := false, n := false, z := false } := by decide
theorem test_nor : (after (.nor 5 3 4) start).reg 5 = 0xE00A ∧ (after (.nor 5 3 4) start).flags =
    { c := true, v := false, n := false, z := false } := by decide
theorem test_lsl : (after (.lsl 5 3 3) start).reg 5 = 0x91A0 ∧ (after (.lsl 5 3 3) start).flags =
    { c := true, v := false, n := false, z := false } := by decide
theorem test_lsr : (after (.lsr 5 3 3) start).reg 5 = 0x0246 ∧ (after (.lsr 5 3 3) start).flags =
    { c := true, v := false, n := false, z := false } := by decide
theorem test_asr : (after (.asr 5 3 3) start).reg 5 = 0x0246 ∧ (after (.asr 5 3 3) start).flags =
    { c := true, v := false, n := false, z := false } := by decide
theorem test_ldw : (after (.ldw 5 3 2) start).reg 5 = 0xBEEF ∧ (after (.ldw 5 3 2) start).flags =
    { c := true, v := false, n := false, z := false } := by decide
theorem test_lui : (after (.lui 5 150) start).reg 5 = 0x9664 ∧ (after (.lui 5 150) start).flags =
    { c := true, v := false, n := false, z := false } := by decide
theorem test_lli : (after (.lli 5 150) start).reg 5 = 0x0096 ∧ (after (.lli 5 150) start).flags =
    { c := true, v := false, n := false, z := false } := by decide
theorem test_sdw : (after (.sdw 5 3 2) start).mem = [(0x1244, 0x0064)] := by decide

/-! ## Corner vectors (95_test_vectors.md T3 to T5) -/

/-- A state with two operands and a carry. -/
def pair (x y : Word) (c : Bool) : State :=
  { State.reset with
    regs := #v[0, x, y, 0, 0, 0, 0, 0], flags := { c := c, v := false, n := false, z := false } }

theorem test_add_overflow : (after (.add 3 1 2) (pair 0x8000 0x8000 false)).reg 3 = 0x0000 ∧
    (after (.add 3 1 2) (pair 0x8000 0x8000 false)).flags =
      { c := true, v := true, n := false, z := true } := by decide
theorem test_adc_carry : (after (.adc 3 1 2) (pair 0x7FFF 0x0000 true)).reg 3 = 0x8000 ∧
    (after (.adc 3 1 2) (pair 0x7FFF 0x0000 true)).flags =
      { c := false, v := true, n := true, z := false } := by decide
theorem test_addi_wrap : (after (.addi 3 1 31) (pair 0xFFFF 0 false)).reg 3 = 0x001E ∧
    (after (.addi 3 1 31) (pair 0xFFFF 0 false)).flags =
      { c := true, v := false, n := false, z := false } := by decide
theorem test_adci_wrap : (after (.adci 3 1 31) (pair 0xFFE0 0 true)).reg 3 = 0x0000 ∧
    (after (.adci 3 1 31) (pair 0xFFE0 0 true)).flags =
      { c := true, v := false, n := false, z := true } := by decide
theorem test_sub_overflow : (after (.sub 3 1 2) (pair 0x7FFF 0xFFFF false)).reg 3 = 0x8000 ∧
    (after (.sub 3 1 2) (pair 0x7FFF 0xFFFF false)).flags =
      { c := false, v := true, n := true, z := false } := by decide
theorem test_subi_overflow : (after (.subi 3 1 1) (pair 0x8000 0 false)).reg 3 = 0x7FFF ∧
    (after (.subi 3 1 1) (pair 0x8000 0 false)).flags =
      { c := true, v := true, n := false, z := false } := by decide
theorem test_suc_borrow : (after (.suc 3 1 2) (pair 0x0000 0xFFFF false)).reg 3 = 0x0000 ∧
    (after (.suc 3 1 2) (pair 0x0000 0xFFFF false)).flags =
      { c := false, v := false, n := false, z := true } := by decide
theorem test_suci_borrow : (after (.suci 3 1 9) (pair 0x0009 0 false)).reg 3 = 0xFFFF ∧
    (after (.suci 3 1 9) (pair 0x0009 0 false)).flags =
      { c := false, v := false, n := true, z := false } := by decide
theorem test_neg_min : (after (.neg 1) (pair 0x8000 0 false)).reg 1 = 0x8000 ∧
    (after (.neg 1) (pair 0x8000 0 false)).flags =
      { c := false, v := true, n := true, z := false } := by decide
theorem test_addib_overflow : (after (.addib 1 255) (pair 0x7FFF 0 false)).reg 1 = 0x80FE ∧
    (after (.addib 1 255) (pair 0x7FFF 0 false)).flags =
      { c := false, v := true, n := true, z := false } := by decide
theorem test_subib_overflow : (after (.subib 1 255) (pair 0x8000 0 false)).reg 1 = 0x7F01 ∧
    (after (.subib 1 255) (pair 0x8000 0 false)).flags =
      { c := true, v := true, n := false, z := false } := by decide
theorem test_asr_sign : (after (.asr 3 1 15) (pair 0x8001 0 false)).reg 3 = 0xFFFF := by decide
theorem test_lsr_zero : (after (.lsr 3 1 15) (pair 0x8001 0 false)).reg 3 = 0x0001 := by decide
theorem test_lsl_lost : (after (.lsl 3 1 15) (pair 0x8001 0 false)).reg 3 = 0x8000 := by decide
/-- Under `SUB_CARRY` = borrow, 1 - 0xFFFF leaves c = 1 (95_test_vectors.md P4). -/
theorem test_sub_borrow_sense :
    (after (.sub 3 1 2) { pair 1 0xFFFF false with
      params := { Params.default with subCarry := .borrow } }).flags.c = true := by decide

/-! ## Control transfer (95_test_vectors.md T6) -/

/-- A state at an address with given flags. -/
def at_ (a : Word) (v n z : Bool) : State :=
  { State.reset with pc := a, flags := { c := false, v := v, n := n, z := z } }

theorem test_br : (after (.br 0x80) (at_ 0x0010 false false false)).pc = 0xFF91 := by decide
theorem test_bne : (after (.bne 0xFD) (at_ 0x0005 false false false)).pc = 0x0003 ∧
    (after (.bne 0xFD) (at_ 0x0005 false false true)).pc = 0x0006 := by decide
theorem test_be : (after (.be 0x05) (at_ 0x0020 false false true)).pc = 0x0026 ∧
    (after (.be 0x05) (at_ 0x0020 false false false)).pc = 0x0021 := by decide
theorem test_blt : (after (.blt 0x02) (at_ 0x0030 false true false)).pc = 0x0033 ∧
    (after (.blt 0x02) (at_ 0x0030 true true false)).pc = 0x0031 := by decide
theorem test_bge : (after (.bge 0x80) (at_ 0x0030 false false false)).pc = 0xFFB1 ∧
    (after (.bge 0x80) (at_ 0x0030 false true false)).pc = 0x0031 := by decide
theorem test_bwl : (after (.bwl 0x00) (at_ 0xFFFF false false false)).lr = 0x0000 ∧
    (after (.bwl 0x0A) (at_ 0x0002 false false false)).pc = 0x000D := by decide
theorem test_ret : (after .ret { at_ 0x000D false false false with lr := 0x0003 }).pc = 0x0003 := by
  decide
theorem test_abr : (after (.abr 3) start).pc = 0x1234 := by decide

/-! ## Stack and faults (95_test_vectors.md T8, T9) -/

/-- A state with a stack pointer, R5 = 0x1234, LR = 0x0005, TEXT = addresses 0 to 3, at address 9. -/
def stacked (sp : Word) : State :=
  { State.reset with
    regs := #v[0, 0, 0, 0, 0, 0x1234, 0, 0], pc := 0x0009, sp := sp, lr := 0x0005,
    mem := [(0x0200, 0x5678)], text := [0, 1, 2, 3] }

theorem test_push : (after (.push (.reg 5)) (stacked 0x01FF)).sp = 0x0200 ∧
    (after (.push (.reg 5)) (stacked 0x01FF)).mem = [(0x0200, 0x1234)] := by decide
theorem test_push_rl : (after (.push .link) (stacked 0x0200)).mem =
    [(0x0200, 0x5678), (0x0201, 0x0005)] := by decide
theorem test_pop : (after (.pop (.reg 6)) (stacked 0x0200)).reg 6 = 0x5678 ∧
    (after (.pop (.reg 6)) (stacked 0x0200)).sp = 0x01FF := by decide
theorem test_pop_rl : (after (.pop .link) (stacked 0x0200)).lr = 0x5678 := by decide
/-- A push that wraps into TEXT is refused and changes nothing else (95_test_vectors.md T8). -/
theorem test_push_refused : after (.push (.reg 5)) (stacked 0xFFFF) =
    { stacked 0xFFFF with faultMark := some (.textWriteRefused 0x0009 0x0000) } := by decide
/-- Under `STACK_FULL = false` the push stores at the old SP (95_test_vectors.md T8). -/
theorem test_push_empty_stack : (after (.push (.reg 5)) { stacked 0x01FF with
    params := { Params.default with stackFull := false } }).mem =
    [(0x01FF, 0x1234), (0x0200, 0x5678)] := by decide

/-- MEM_VALID(addr) = (addr < 0x8000), as in 95_test_vectors.md T7 to T9. -/
def lowHalf : Params := { Params.default with unbacked := [{ first := 0x8000, last := 0xFFFF }] }

/-- An LDW outside backed memory at address 8 (95_test_vectors.md T7). -/
def outside : State :=
  { State.reset with
    regs := #v[0, 0, 1, 0x7FFF, 0, 0, 0, 0], pc := 0x0008, params := lowHalf }

theorem test_ldw_fault : after (.ldw 5 3 2) outside =
    { outside with faultMark := some (.memoryFault 0x0008 0x8000) } := by decide

/-! ## Steps -/

/-- The state after one step, or the old one if there is none. -/
def stepped (s : State) : State :=
  match step s with
  | .next t => t
  | _ => s

/-- The first instruction after reset runs from where `withFetchWord` puts it. -/
theorem test_step_first : (stepped (State.reset.withFetchWord 16 0xD851)).reg 1 = 0x000A ∧
    (stepped (State.reset.withFetchWord 16 0xD851)).pc = 0x0001 := by decide
/-- 0x7ABC at 0x0020 is UNDEFINED: the mark is set, PC stays, and no step follows
(95_test_vectors.md T9). -/
theorem test_step_undefined :
    stepped { State.reset with pc := 0x0020, mem := [(0x0020, 0x7ABC)] } =
      { State.reset with
        pc := 0x0020, mem := [(0x0020, 0x7ABC)],
        faultMark := some (.undefinedInstruction 0x0020 0x7ABC) } := by decide
/-- The fetch after `ABR R0` to 0x8000 faults (95_test_vectors.md T9). -/
theorem test_step_fetch_fault :
    (stepped { State.reset with pc := 0x8000, params := lowHalf }).faultMark =
      some (.memoryFault 0x8000 0x8000) := by decide
/-- Under `harvard` the instruction comes from IMem (20_memory.md R41). -/
theorem test_step_harvard :
    (stepped { State.reset with
      imem := [(0, 0xD851)], params := { Params.default with memOrg := .harvard } }).reg 1 =
      0x000A := by decide
/-- Program P1's words at 0 and 1, loaded (95_test_vectors.md P1, 70_reset_and_hazards.md R203). -/
theorem test_load : (State.reset.load [(0, 0xD800), (1, 0xD000)] [(0x0100, 0x0001)]).mem =
    [(0, 0xD800), (1, 0xD000), (0x0100, 0x0001)] ∧
    (State.reset.load [(1, 0xD000), (0, 0xD800)] []).text = [0, 1] := by decide

/-! ## Witnesses: the hypotheses of each obligation can be met, clause by clause -/

theorem witness_DecodeOfEncodeIsIdentity : (Instr.undefined11110 0xF7FF).wellFormed = true := by
  decide

theorem witness_UnusedBitsDoNotChangeDecoding :
    (0x08DD#16 &&& usedBits Params.default (decode Params.default 0x08DD#16)) =
      (0x0CDD#16 &&& usedBits Params.default (decode Params.default 0x08DD#16)) := by decide

theorem witness_OpcodeSelectsInstruction :
    (opcodeBits 0x2000 = opcodeBits 0x27FF ∧ opcodeBits 0x2000 ≠ 0b11100#5 ∧
      opcodeBits 0x2000 ≠ 0b11101#5 ∧ opcodeBits 0x2000 ≠ 0b11111#5) ∧
    opcodeBits 0xE800 = 0b11101#5 ∧ opcodeBits 0xEFFF = 0b11101#5 ∧
    (opcodeBits 0xF800 = 0b11111#5 ∧ opcodeBits 0xFFFF = 0b11111#5) ∧
    opcodeBits 0xE000 = 0b11100#5 := by decide

/-- Each opcode of the statement at its lowest or highest word, and each condition. -/
theorem witness_FieldsOfFormatsBAndD :
    opcodeBits 0xC000 = 0b11000#5 ∧ opcodeBits 0xCFFF = 0b11001#5 ∧
    opcodeBits 0xD000 = 0b11010#5 ∧ opcodeBits 0xDFFF = 0b11011#5 ∧
    (∀ c : Reg, ∃ w : Word, opcodeBits w = 0b11111#5 ∧ BitVec.ofFin c = w.extractLsb' 0 3) := by
  refine ⟨by decide, by decide, by decide, by decide,
    fun c => ⟨0xF800#16 + BitVec.ofNat 16 c.val, ?_⟩⟩
  revert c
  decide

theorem witness_FieldsOfFormatsAAndC :
    opcodeBits 0x2000 = 0b00100#5 ∧ opcodeBits 0x37FF = 0b00110#5 ∧
    opcodeBits 0x4800 = 0b01001#5 ∧ opcodeBits 0x5FFF = 0b01011#5 ∧
    opcodeBits 0x8000 = 0b10000#5 ∧ opcodeBits 0x8FFF = 0b10001#5 ∧
    opcodeBits 0x9000 = 0b10010#5 ∧ opcodeBits 0xA7FF = 0b10100#5 ∧
    opcodeBits 0xA800 = 0b10101#5 ∧ opcodeBits 0x47FF = 0b01000#5 ∧
    opcodeBits 0x9FFF = 0b10011#5 ∧ opcodeBits 0x6800 = 0b01101#5 ∧
    (opcodeBits 0xEFFF = 0b11101#5 ∧ (0xEFFF#16).getLsbD 9 = true) ∧
    (opcodeBits 0xE800 = 0b11101#5 ∧ (0xE800#16).getLsbD 9 = false) ∧
    (opcodeBits 0xFFF9 = 0b11111#5 ∧ ((1 : Reg).val = ((0xFFF9#16).extractLsb' 0 3).toNat)) := by
  decide

theorem witness_FieldsOfImmediateAndStackFormats :
    opcodeBits 0x2800 = 0b00101#5 ∧ opcodeBits 0x3FFF = 0b00111#5 ∧
    opcodeBits 0x5000 = 0b01010#5 ∧ opcodeBits 0x67FF = 0b01100#5 ∧
    opcodeBits 0x0800 = 0b00001#5 ∧ opcodeBits 0x17FF = 0b00010#5 ∧
    opcodeBits 0x1800 = 0b00011#5 ∧
    (opcodeBits 0xE207 = 0b11100#5 ∧
      (0xE207#16).getLsbD (Params.default.stackDirBit.place.val + 3) =
        Params.default.stackDirBit.popValue) ∧
    (opcodeBits 0xE5FF = 0b11100#5 ∧
      (0xE5FF#16).getLsbD (Params.default.stackDirBit.place.val + 3) ≠
        Params.default.stackDirBit.popValue) := by decide

/-- Labels at the two ends of the branch range, and one past each (30_encoding.md R76, R78). -/
theorem witness_AssembledLabelsAreBranchTargets :
    asmLabel Params.default 0 0x0080 = some 0x7F ∧ asmLabel Params.default 0 0x0081 = none ∧
    asmLabel Params.default 0x0100 0x0081 = some 0x80 ∧
    asmLabel Params.default 0x0100 0x0080 = none := by decide

theorem witness_AssemblerChecksRanges :
    asmReg 7 = some 7 ∧ asmReg 8 = none ∧ asmImm 5 31 = some 31 ∧ asmImm 5 32 = none ∧
    asmImm 5 (-1) = none ∧ asmImm 4 15 = some 15 ∧ asmImm 4 16 = none ∧
    asmImm 8 255 = some 255 ∧ asmImm 8 256 = none ∧
    assemble Params.default 0 (.ldw 7 0 1) = some (.ldw 7 0 1) ∧
    assemble Params.default 0 (.lsl 7 0 15) = some (.lsl 7 0 15) ∧
    assemble Params.default 0 (.lsl 7 0 16) = none ∧
    assemble Params.default 0 (.addi 7 0 31) = some (.addi 7 0 31) ∧
    assemble Params.default 0 (.push (.reg 8)) = none ∧
    assemble Params.default 0 (.pop .rl) = some (.pop .link) := by decide

theorem witness_LoadSeesLatestStore :
    (start.memWrite 0xFFFF 7).toOption = some { start with mem := [(0x1244, 0xBEEF), (0xFFFF, 7)] } ∧
    (0x0000#16 : Word) ≠ 0xFFFF#16 := by decide

theorem witness_EqualContentsAreEqualMemories :
    Memory.wf [(0, 1), (65535, 2)] = true ∧
    ∀ a : Word, Memory.read [(0, 1), (65535, 2)] a.toNat = Memory.read [(0, 1), (65535, 2)] a.toNat :=
  ⟨by decide, fun _ => rfl⟩

/-- An unbacked address, the last backed one, an address of TEXT and the first one past it. -/
theorem witness_StoreChecksInOrder :
    memValid lowHalf 0x8000 = false ∧ memValid lowHalf 0x7FFF = true ∧
    ((0x0003#16 : Word).toNat ∈ (stacked 0).text ∧ memValid (stacked 0).params 0x0003 = true) ∧
    ((0x0004#16 : Word).toNat ∉ (stacked 0).text ∧ memValid (stacked 0).params 0x0004 = true) := by
  decide

theorem witness_LoadingARun :
    State.reset.wf = true ∧ State.reset.justReset = true ∧
    ([((0 : Word), (0xD800 : Word)), (0xFFFF, 0xFFF8)].map Prod.fst).Nodup ∧
    ((0xFFFF : Word), (0xFFF8 : Word)) ∈ [((0 : Word), (0xD800 : Word)), (0xFFFF, 0xFFF8)] := by
  decide

/-- The data clauses: an address apart from the program's, and one that is the program's too, under
`harvard`; and an address that neither list names. -/
theorem witness_LoadingARun_data :
    ([((0 : Word), (0x1111 : Word)), (0x0100, 0x2222)].map Prod.fst).Nodup ∧
    (0x0100 : Word) ∉ [((0 : Word), (0xD800 : Word))].map Prod.fst ∧
    (0x0101 : Word) ∉ [((0 : Word), (0x1111 : Word)), (0x0100, 0x2222)].map Prod.fst ∧
    (State.reset.withOrg .harvard).params.memOrg = .harvard ∧
    State.reset.params.memOrg = .unified ∧
    ((State.reset.withOrg .harvard).load [(0, 0xD800)] [(0, 0x1111), (0x0100, 0x2222)]).mem =
      [(0, 0x1111), (0x0100, 0x2222)] := by decide

theorem witness_StepRunsTheDecodedInstruction :
    (start.faultMark = none ∧ start.params.memOrg = .unified ∧
      memValid start.params start.pc = true) ∧
    ((start.withOrg .harvard).faultMark = none ∧
      (start.withOrg .harvard).params.memOrg = .harvard) := by decide

/-- A state whose PC is the first unbacked address. -/
def unfetchable : State := { State.reset with pc := 0x8000, params := lowHalf }

theorem witness_FetchOfUnbackedAddressFaults :
    unfetchable.faultMark = none ∧ unfetchable.params.memOrg = .unified ∧
    memValid unfetchable.params unfetchable.pc = false := by decide

theorem witness_FaultsArePrecise :
    step unfetchable = .next (stepped unfetchable) ∧ (stepped unfetchable).faultMark ≠ none := by
  exact ⟨rfl, by decide⟩

/-- One state for each cause: fetch, opcode, load, store, refused store. -/
theorem witness_FaultsHaveExactlyTheirCauses :
    (unfetchable.faultMark = none ∧ unfetchable.fetchValid = false) ∧
    (State.reset.faultMark = none ∧ State.reset.fetchValid = true ∧
      (decode State.reset.params State.reset.fetchedWord).isUndefined = true) ∧
    (outside.faultMark = none ∧ loadsFrom outside (.ldw 5 3 2) = some 0x8000 ∧
      decode outside.params 0xEA9D = .ldw 5 3 2 ∧ memValid outside.params 0x8000 = false) ∧
    (storesAt outside (.sdw 5 3 2) = some 0x8000 ∧ decode outside.params 0xE89D = .sdw 5 3 2) ∧
    (storesAt (stacked 0xFFFF) (.push (.reg 5)) = some 0 ∧ (stacked 0xFFFF).isText 0 = true ∧
      memValid (stacked 0xFFFF).params 0 = true) := by decide

/-- `start` with one unbacked block that holds no address. -/
def emptyBlock : State :=
  { start with params := { Params.default with unbacked := [{ first := 1, last := 0 }] } }

/-- No block at all, and one block that is empty. -/
theorem witness_NoMemoryFaultWhenAllIsBacked :
    ((∀ b : Word, memValid start.params b = true) ∧ step start = .next (stepped start)) ∧
    (∀ b : Word, memValid emptyBlock.params b = true) ∧
      step emptyBlock = .next (stepped emptyBlock) := by
  refine ⟨⟨fun _ => rfl, rfl⟩, fun b => ?_, rfl⟩
  simp only [memValid, emptyBlock, List.any_cons, List.any_nil, Bool.or_false, Bool.not_eq_true',
    Bool.and_eq_false_iff, decide_eq_false_iff_not]
  bv_omega

/-- SDW at the first address after TEXT. -/
def storing : State := (stacked 0x0200).withFetchWord 16 0xE89D

theorem witness_StepKeepsTheProgram :
    (∀ a : Word, storing.isText a = true → storing.mem.read a.toNat = storing.mem.read a.toNat) ∧
    storing.isText 3 = true ∧ step storing = .next (stepped storing) := by
  exact ⟨fun _ _ => rfl, by decide, rfl⟩

theorem witness_StepKeepsCanonicalForm :
    storing.wf = true ∧ step storing = .next (stepped storing) := by
  exact ⟨by decide, rfl⟩

/-- The same word at PC in both memories. -/
def bothMemories : State := { State.reset with mem := [(0, 0xD851)], imem := [(0, 0xD851)] }

theorem witness_OrganisationsTakeTheSameStep :
    memValid bothMemories.params bothMemories.pc = true ∧
    bothMemories.mem.read bothMemories.pc.toNat = bothMemories.imem.read bothMemories.pc.toNat ∧
    (stepped (bothMemories.withOrg .harvard)).reg 1 = 0x000A := by decide

theorem witness_EndOfRunIsStable :
    (State.reset.withFetchWord 16 0xFFF8).atEnd = true ∧
    (State.reset.withFetchWord 16 0xFFF8).params = Params.default ∧
    (State.reset.withFetchWord 16 0xFFF8).faultMark = none ∧
    (State.reset.withFetchWord 16 0xFFF8).fetchedWord = 0xFFF8 := by decide

theorem witness_GeneralRegisterFrame :
    exec (.add 5 3 4) start = .next (after (.add 5 3 4) start) ∧
    (Instr.add 5 3 4).regWritten ≠ some 3 := by
  exact ⟨rfl, by decide⟩

theorem witness_UnreadRegistersHaveNoInfluence :
    (7 : Reg) ∉ (Instr.sdw 5 3 2).regsRead ∧ (Instr.sdw 5 3 2).regWritten ≠ some 7 ∧
    exec (.sdw 5 3 2) start = .next (after (.sdw 5 3 2) start) := by
  exact ⟨by decide, by decide, rfl⟩

theorem witness_FlagFrame :
    (exec (.lsl 5 3 3) start = .next (after (.lsl 5 3 3) start) ∧
      (Instr.lsl 5 3 3).flagsWritten = .none) ∧
    (exec (.and 5 3 4) start = .next (after (.and 5 3 4) start) ∧
      (Instr.and 5 3 4).flagsWritten = .zOnly) := by
  exact ⟨⟨rfl, rfl⟩, ⟨rfl, rfl⟩⟩

theorem witness_SpecialRegisterFrame :
    exec (.pop (.reg 6)) (stacked 0x0200) = .next (after (.pop (.reg 6)) (stacked 0x0200)) ∧
    (Instr.pop (.reg 6)).writesLr = false ∧
    exec (.bwl 0) (stacked 0x0200) = .next (after (.bwl 0) (stacked 0x0200)) ∧
    (Instr.bwl 0).writesSp = false := by
  exact ⟨rfl, rfl, rfl, rfl⟩

/-- The word after the one that a PUSH stores. -/
theorem witness_MemoryFrame :
    exec (.push (.reg 5)) (stacked 0x01FF) = .next (after (.push (.reg 5)) (stacked 0x01FF)) ∧
    storesAt (stacked 0x01FF) (.push (.reg 5)) ≠ some 0x0201 := by
  exact ⟨rfl, by decide⟩

theorem witness_SequentialPc :
    (at_ 0xFFFF false false false).faultMark = none ∧
    exec (.neg 1) (at_ 0xFFFF false false false) =
      .next (after (.neg 1) (at_ 0xFFFF false false false)) ∧
    (after (.neg 1) (at_ 0xFFFF false false false)).faultMark = none ∧
    (Instr.neg 1).isControlTransfer = false := by
  exact ⟨rfl, rfl, rfl, rfl⟩

/-- The operand `y` of the register, imm5 and imm8 forms, at the top of each immediate's range. -/
theorem witness_AdditionResults :
    0x0FF1#16 = start.reg 4 ∧ 0x001F#16 = BitVec.ofNat 16 (31#5).toNat ∧
    0x00FF#16 = BitVec.ofNat 16 (255#8).toNat := by decide

theorem witness_AdditionWithCarryResults :
    0x0FF1#16 = start.reg 4 ∧ 0x001F#16 = BitVec.ofNat 16 (31#5).toNat := by decide

theorem witness_SubtractionResults :
    0x0FF1#16 = start.reg 4 ∧ 0x0000#16 = BitVec.ofNat 16 (0#5).toNat ∧
    0x00FF#16 = BitVec.ofNat 16 (255#8).toNat := by decide

theorem witness_SubtractionWithCarryResults :
    0x0FF1#16 = start.reg 4 ∧ 0x0000#16 = BitVec.ofNat 16 (0#5).toNat := by decide

/-- Destination low 0, high 1, operands 2, 3 and 4, 5. -/
theorem witness_DoubleWordArithmetic :
    (0 : Reg) ≠ 3 ∧ (0 : Reg) ≠ 5 ∧ (0 : Reg) ≠ 1 ∧ start.params.subCarry = .notBorrow := by decide

theorem witness_ConstantLoadPair :
    (0x9634#16 : Word).toNat = (0x96#8).toNat * 256 + (0x34#8).toNat := by decide

/-- The encoding clauses of the logic statement, at the highest word of each opcode. -/
theorem witness_LogicResults :
    opcodeBits 0x87FF = 0b10000#5 ∧ opcodeBits 0x8FFF = 0b10001#5 ∧
    opcodeBits 0x97FF = 0b10010#5 ∧ opcodeBits 0x9FFF = 0b10011#5 ∧
    opcodeBits 0xA7FF = 0b10100#5 ∧ opcodeBits 0xAFFF = 0b10101#5 := by decide

/-- The last backed address and the first unbacked one, as LDW's address. -/
theorem witness_LoadWordResult :
    (0x7FFF#16 = BitVec.ofNat 16 (((outside.reg 3).toNat + (outside.reg 0).toNat) % 65536) ∧
      memValid outside.params 0x7FFF = true) ∧
    (0x8000#16 = BitVec.ofNat 16 (((outside.reg 3).toNat + (outside.reg 2).toNat) % 65536) ∧
      memValid outside.params 0x8000 = false) ∧
    (opcodeBits 0xEA00 = 0b11101#5 ∧ (0xEA00#16).getLsbD 9 = true) := by decide

/-- SDW to plain memory, to the first address of TEXT, and to an unbacked address. -/
theorem witness_StoreWordResult :
    (0x1234#16 = BitVec.ofNat 16
        ((((stacked 0).reg 5).toNat + ((stacked 0).reg 0).toNat) % 65536) ∧
      memValid (stacked 0).params 0x1234 = true ∧ (stacked 0).isText 0x1234 = false) ∧
    (0x0000#16 = BitVec.ofNat 16
        ((((stacked 0).reg 0).toNat + ((stacked 0).reg 1).toNat) % 65536) ∧
      memValid (stacked 0).params 0x0000 = true ∧ (stacked 0).isText 0x0000 = true) ∧
    (0x8000#16 = BitVec.ofNat 16 (((outside.reg 3).toNat + (outside.reg 2).toNat) % 65536) ∧
      memValid outside.params 0x8000 = false) ∧
    (opcodeBits 0xEDFF = 0b11101#5 ∧ (0xEDFF#16).getLsbD 9 = false) := by decide

theorem witness_BranchesAfterComparison : start.params.subCarry = .notBorrow := by decide

theorem witness_ReturnResult :
    opcodeBits 0xFFFA = 0b11111#5 ∧ (0xFFFA#16 : Word).extractLsb' 0 3 = 0b010#3 := by decide

theorem witness_AbsoluteBranchResult :
    opcodeBits 0xFFF9 = 0b11111#5 ∧ (0xFFF9#16 : Word).extractLsb' 0 3 = 0b001#3 := by decide

theorem witness_CallThenReturn :
    ({ start with lr := 0x0001 } : State).lr = (after (.bwl 0x0A) start).lr := by decide

/-- A stored push, a refused one and an unbacked one, under both stack disciplines. -/
theorem witness_PushResult :
    (memValid (stacked 0x01FF).params 0x0200 = true ∧ (stacked 0x01FF).isText 0x0200 = false) ∧
    (memValid (stacked 0xFFFF).params 0x0000 = true ∧ (stacked 0xFFFF).isText 0x0000 = true) ∧
    memValid lowHalf 0x8000 = false ∧ ({ lowHalf with stackFull := false } : Params).stackFull = false := by
  decide

theorem witness_PopResult :
    memValid (stacked 0x0200).params 0x0200 = true ∧ memValid lowHalf 0x8000 = false := by decide

theorem witness_PushThenPop :
    (0x0200#16 : Word) = (if (stacked 0x01FF).params.stackFull = true then
      (stacked 0x01FF).sp + 1 else (stacked 0x01FF).sp) ∧
    memValid (stacked 0x01FF).params 0x0200 = true ∧ (stacked 0x01FF).isText 0x0200 = false := by
  decide

theorem witness_UndefinedOpcodesRaise :
    after (.undefined11110 0xF123) start =
      { start with faultMark := some (.undefinedInstruction start.pc 0xF123) } := by decide

end Sys2Proof.Tests
end

section
/-! SUPPORT. What the decoder answers for one opcode or one condition, and what the opcode alone
settles; then the two statements built from them. -/

namespace Sys2Proof

/-! ## The rows of format B and of the control transfers (30_encoding.md R65, R67, R68, R75) -/

section
variable {w : Word} (p : Params)

theorem decode_addib (h : opcodeBits w = 0b11000#5) :
    decode p w = .addib (rdField w) (imm8Field w) := by
  simp [decode, opcodeBits_bits h]

theorem decode_subib (h : opcodeBits w = 0b11001#5) :
    decode p w = .subib (rdField w) (imm8Field w) := by
  simp [decode, opcodeBits_bits h]

theorem decode_lui (h : opcodeBits w = 0b11010#5) :
    decode p w = .lui (rdField w) (imm8Field w) := by
  simp [decode, opcodeBits_bits h]

theorem decode_lli (h : opcodeBits w = 0b11011#5) :
    decode p w = .lli (rdField w) (imm8Field w) := by
  simp [decode, opcodeBits_bits h]

theorem decode_eq_decodeControl (h : opcodeBits w = 0b11111#5) :
    decode p w = decodeControl w := by
  simp [decode, opcodeBits_bits h]

theorem decode_br (h : opcodeBits w = 0b11111#5) (hc : w.extractLsb' 0 3 = 0b000#3) :
    decode p w = .br (imm8Field w) := by
  simp [decode_eq_decodeControl p h, decodeControl, lowField_bits hc]

theorem decode_abr (h : opcodeBits w = 0b11111#5) (hc : w.extractLsb' 0 3 = 0b001#3) :
    decode p w = .abr (raField w) := by
  simp [decode_eq_decodeControl p h, decodeControl, lowField_bits hc]

theorem decode_ret (h : opcodeBits w = 0b11111#5) (hc : w.extractLsb' 0 3 = 0b010#3) :
    decode p w = .ret := by
  simp [decode_eq_decodeControl p h, decodeControl, lowField_bits hc]

theorem decode_bwl (h : opcodeBits w = 0b11111#5) (hc : w.extractLsb' 0 3 = 0b011#3) :
    decode p w = .bwl (imm8Field w) := by
  simp [decode_eq_decodeControl p h, decodeControl, lowField_bits hc]

theorem decode_blt (h : opcodeBits w = 0b11111#5) (hc : w.extractLsb' 0 3 = 0b100#3) :
    decode p w = .blt (imm8Field w) := by
  simp [decode_eq_decodeControl p h, decodeControl, lowField_bits hc]

theorem decode_bge (h : opcodeBits w = 0b11111#5) (hc : w.extractLsb' 0 3 = 0b101#3) :
    decode p w = .bge (imm8Field w) := by
  simp [decode_eq_decodeControl p h, decodeControl, lowField_bits hc]

theorem decode_bne (h : opcodeBits w = 0b11111#5) (hc : w.extractLsb' 0 3 = 0b110#3) :
    decode p w = .bne (imm8Field w) := by
  simp [decode_eq_decodeControl p h, decodeControl, lowField_bits hc]

theorem decode_be (h : opcodeBits w = 0b11111#5) (hc : w.extractLsb' 0 3 = 0b111#3) :
    decode p w = .be (imm8Field w) := by
  simp [decode_eq_decodeControl p h, decodeControl, lowField_bits hc]

end

/-- Settles O7: one decoder equation for each opcode of format B and each condition. -/
theorem fieldsOfFormatsBAndD : Obligations.FieldsOfFormatsBAndD := by
  rintro p w rd imm8 cond hrd rfl rfl
  obtain rfl : rdField w = rd := regField_eq hrd
  exact ⟨decode_addib p, decode_subib p, decode_lui p, decode_lli p, decode_br p,
    fun h hc => congrArg Instr.mnemonic (decode_abr p h hc), decode_ret p, decode_bwl p,
    decode_blt p, decode_bge p, decode_bne p, decode_be p⟩

/-! ## The three opcodes of more than one row (30_encoding.md R66, R67, R69) -/

section
variable {w : Word} (p : Params)

theorem decode_eq_decodeStack (h : opcodeBits w = 0b11100#5) : decode p w = decodeStack p w := by
  simp [decode, opcodeBits_bits h]

theorem decode_eq_decodeTransfer (h : opcodeBits w = 0b11101#5) :
    decode p w = decodeTransfer w := by
  simp [decode, opcodeBits_bits h]

end

theorem decodeStack_opcode (p : Params) (w : Word) : (decodeStack p w).opcode = 0b11100#5 := by
  unfold decodeStack
  split <;> rfl

theorem decodeTransfer_opcode (w : Word) : (decodeTransfer w).opcode = 0b11101#5 := by
  unfold decodeTransfer
  split <;> rfl

theorem decodeControl_opcode (w : Word) : (decodeControl w).opcode = 0b11111#5 := by
  unfold decodeControl
  split <;> rfl

theorem decodeStack_mnemonic (p : Params) (w : Word) :
    (decodeStack p w).mnemonic = "PUSH" ∨ (decodeStack p w).mnemonic = "POP" := by
  unfold decodeStack
  split
  · exact .inr rfl
  · exact .inl rfl

theorem decodeTransfer_mnemonic (w : Word) :
    (decodeTransfer w).mnemonic = if w.getLsbD 9 then "LDW" else "SDW" := by
  unfold decodeTransfer
  split <;> rfl

/-- The mnemonics of opcode 11111, by the condition `w[2:0]` (30_encoding.md R67, R68). -/
def controlMnemonic : BitVec 3 → String
  | 0b000#3 => "BR"
  | 0b001#3 => "ABR"
  | 0b010#3 => "RET"
  | 0b011#3 => "BWL"
  | 0b100#3 => "BLT"
  | 0b101#3 => "BGE"
  | 0b110#3 => "BNE"
  | 0b111#3 => "BE"

theorem controlMnemonic_injective : Function.Injective controlMnemonic := by
  unfold Function.Injective
  decide

theorem decodeControl_mnemonic (w : Word) :
    (decodeControl w).mnemonic = controlMnemonic (w.extractLsb' 0 3) := by
  unfold controlMnemonic
  split <;> rename_i hc <;> simp [decodeControl, lowField_bits hc, Instr.mnemonic]

/-! ## What the opcode settles (30_encoding.md R61) -/

/-- The five bits give the opcode: the converse of `opcodeBits_bits`, in the decoder's spelling. -/
theorem opcodeBits_eq_of_bits {w : Word} {op : BitVec 5} (h15 : w.getLsbD 15 = op.getLsbD 4)
    (h14 : w.getLsbD 14 = op.getLsbD 3) (h13 : w.getLsbD 13 = op.getLsbD 2)
    (h12 : w.getLsbD 12 = op.getLsbD 1) (h11 : w.getLsbD 11 = op.getLsbD 0) :
    opcodeBits w = op := by
  refine BitVec.eq_of_getLsbD_eq fun k hk => ?_
  have hk' : k = 0 ∨ k = 1 ∨ k = 2 ∨ k = 3 ∨ k = 4 := by omega
  rcases hk' with rfl | rfl | rfl | rfl | rfl <;> simpa [opcodeBits]

/-- The decoder reads each word as an instruction of the word's own opcode. The three named cases are
its lines of opcodes 11100, 11101 and 11111. -/
theorem decode_opcode (p : Params) (w : Word) : (decode p w).opcode = opcodeBits w := by
  symm
  unfold decode
  split <;> rename_i h15 h14 h13 h12 h11
  case h_29 => rw [decodeStack_opcode]; exact opcodeBits_eq_of_bits h15 h14 h13 h12 h11
  case h_30 => rw [decodeTransfer_opcode]; exact opcodeBits_eq_of_bits h15 h14 h13 h12 h11
  case h_32 => rw [decodeControl_opcode]; exact opcodeBits_eq_of_bits h15 h14 h13 h12 h11
  all_goals rw [Instr.opcode]; exact opcodeBits_eq_of_bits h15 h14 h13 h12 h11

/-- The word of an opcode whose other bits are all 0. -/
def lowestWord (op : BitVec 5) : Word := op ++ 0#11

/-- Off the three shared opcodes, an instruction is of the row that the decoder answers for its
opcode's lowest word, so its opcode alone fixes the row. -/
theorem mnemonic_eq_mnemonic_decode_lowestWord (p : Params) (i : Instr)
    (hE : i.opcode ≠ 0b11100#5) (hC : i.opcode ≠ 0b11101#5) (hD : i.opcode ≠ 0b11111#5) :
    i.mnemonic = (decode p (lowestWord i.opcode)).mnemonic := by
  cases i
  case push | pop => exact absurd rfl hE
  case ldw | sdw => exact absurd rfl hC
  case br | bne | be | blt | bge | bwl | ret | abr => exact absurd rfl hD
  all_goals simp [Instr.opcode, Instr.mnemonic, decode, lowestWord]

theorem decode_mnemonic_congr {w w' : Word} (p : Params) (h : opcodeBits w = opcodeBits w')
    (hE : opcodeBits w ≠ 0b11100#5) (hC : opcodeBits w ≠ 0b11101#5)
    (hD : opcodeBits w ≠ 0b11111#5) : (decode p w).mnemonic = (decode p w').mnemonic := by
  have row_of (v : Word) (hv : opcodeBits w = opcodeBits v) :
      (decode p v).mnemonic = (decode p (lowestWord (opcodeBits w))).mnemonic := by
    rw [hv, ← decode_opcode p v] at hE hC hD ⊢
    exact mnemonic_eq_mnemonic_decode_lowestWord p _ hE hC hD
  exact (row_of w rfl).trans (row_of w' h).symm

/-- Settles O6: off the three shared opcodes the opcode's five bits fix the row; on them LS, the
condition or the stack direction bit does. -/
theorem opcodeSelectsInstruction : Obligations.OpcodeSelectsInstruction := by
  intro p w w'
  refine ⟨decode_opcode p w, decode_mnemonic_congr p, fun h => ?_, fun h h' => ?_, fun h => ?_⟩
  · rw [decode_eq_decodeTransfer p h, decodeTransfer_mnemonic]
  · rw [decode_eq_decodeControl p h, decode_eq_decodeControl p h', decodeControl_mnemonic,
      decodeControl_mnemonic, controlMnemonic_injective.eq_iff]
  · rw [decode_eq_decodeStack p h]
    exact decodeStack_mnemonic p w

end Sys2Proof
end

section
/-! SUPPORT. The six logic instructions: what the decoder answers for each opcode, and what each
instruction does; then the statement built from them. -/

namespace Sys2Proof

open Machine

/-! ## The rows of the logic instructions (30_encoding.md R62, R75, R81) -/

section
variable {w : Word} (p : Params)

theorem decode_and (h : opcodeBits w = 0b10000#5) :
    decode p w = .and (rdField w) (raField w) (rbField w) := by
  simp [decode, opcodeBits_bits h]

theorem decode_or (h : opcodeBits w = 0b10001#5) :
    decode p w = .or (rdField w) (raField w) (rbField w) := by
  simp [decode, opcodeBits_bits h]

theorem decode_xor (h : opcodeBits w = 0b10010#5) :
    decode p w = .xor (rdField w) (raField w) (rbField w) := by
  simp [decode, opcodeBits_bits h]

theorem decode_not (h : opcodeBits w = 0b10011#5) :
    decode p w = .not (rdField w) (raField w) := by
  simp [decode, opcodeBits_bits h]

theorem decode_nand (h : opcodeBits w = 0b10100#5) :
    decode p w = .nand (rdField w) (raField w) (rbField w) := by
  simp [decode, opcodeBits_bits h]

theorem decode_nor (h : opcodeBits w = 0b10101#5) :
    decode p w = .nor (rdField w) (raField w) (rbField w) := by
  simp [decode, opcodeBits_bits h]

end

/-! ## What they do (40_data_manipulation.md R101, R112 to R117) -/

/-- The end of a logic instruction, with z read as the number being 0. -/
theorem finishLogic_eq_afterResult (s : State) (rd : Reg) (r : Word) :
    finishLogic s rd r =
      .next (s.afterResult rd r { s.flags with z := decide (r.toNat = 0) }) := by
  have hz : (r == 0x0000#16) = decide (r.toNat = 0) := by
    rw [beq_eq_decide, decide_eq_decide]
    exact BitVec.toNat_eq
  rw [finishLogic_eq, hz, State.afterResult]

section
variable (s : State) (rd ra rb : Reg)

theorem exec_and : exec (.and rd ra rb) s = finishLogic s rd (s.reg ra &&& s.reg rb) := rfl

theorem exec_or : exec (.or rd ra rb) s = finishLogic s rd (s.reg ra ||| s.reg rb) := rfl

theorem exec_xor : exec (.xor rd ra rb) s = finishLogic s rd (s.reg ra ^^^ s.reg rb) := rfl

theorem exec_not : exec (.not rd ra) s = finishLogic s rd (~~~s.reg ra) := rfl

theorem exec_nand : exec (.nand rd ra rb) s = finishLogic s rd (~~~(s.reg ra &&& s.reg rb)) := rfl

theorem exec_nor : exec (.nor rd ra rb) s = finishLogic s rd (~~~(s.reg ra ||| s.reg rb)) := rfl

end

/-- A meaning that ends as a logic instruction does, in the form of the statement below. -/
theorem exec_eq_afterResult_of_finishLogic {i : Instr} {s : State} {rd : Reg} {x : Word}
    (h : exec i s = finishLogic s rd x) (r : Word) (hr : r = x) :
    exec i s = .next (s.afterResult rd r { s.flags with z := decide (r.toNat = 0) }) := by
  rw [h, ← hr, finishLogic_eq_afterResult]

/-- Settles O43: one decoder equation for each of the six opcodes, and the bitwise result that each
meaning hands to the shared end `finishLogic`. -/
theorem logicResults : Obligations.LogicResults := by
  intro p w s rd ra rb
  exact ⟨decode_and p, decode_or p, decode_xor p, decode_not p, decode_nand p, decode_nor p,
    exec_eq_afterResult_of_finishLogic (exec_and s rd ra rb),
    exec_eq_afterResult_of_finishLogic (exec_or s rd ra rb),
    exec_eq_afterResult_of_finishLogic (exec_xor s rd ra rb),
    exec_eq_afterResult_of_finishLogic (exec_not s rd ra),
    exec_eq_afterResult_of_finishLogic (exec_nand s rd ra rb),
    exec_eq_afterResult_of_finishLogic (exec_nor s rd ra rb)⟩

end Sys2Proof
end

section
/-! SUPPORT. LDW and SDW: what the decoder answers for opcode 11101, and every way in which each of the
two can end; then the two statements built from them. -/

namespace Sys2Proof

open Machine

/-! ## The two rows of opcode 11101 (30_encoding.md R66, R75) -/

section
variable {w : Word} (p : Params)

theorem decode_ldw (h : opcodeBits w = 0b11101#5) (hls : w.getLsbD 9 = true) :
    decode p w = .ldw (rdField w) (raField w) (rbField w) := by
  rw [decode_eq_decodeTransfer p h, decodeTransfer, if_pos hls]

theorem decode_sdw (h : opcodeBits w = 0b11101#5) (hls : w.getLsbD 9 = false) :
    decode p w = .sdw (rdField w) (raField w) (rbField w) := by
  rw [decode_eq_decodeTransfer p h, decodeTransfer, if_neg (ne_true_of_eq_false hls)]

end

/-! ## What they do (42_data_transfer.md R140 to R142) -/

section
variable (s : State) (rd ra ro : Reg)

theorem exec_ldw : exec (.ldw rd ra ro) s =
    finishAccess s ((s.memRead (s.effectiveAddress ra ro)).map (s.setReg rd)) := rfl

theorem exec_sdw : exec (.sdw rd ra ro) s =
    finishAccess s (s.memWrite (s.effectiveAddress ra ro) (s.reg rd)) := rfl

/-- Base and offset play the same part in the address. -/
theorem effectiveAddress_comm : s.effectiveAddress ra ro = s.effectiveAddress ro ra :=
  BitVec.add_comm _ _

end

/-- A write to the list of cells stores one word, as the statements say it of word addresses. -/
theorem storedWord_write (m : Memory) (addr v : Word) :
    storedWord m (m.write addr.toNat v) addr v := by
  intro b
  simp only [Memory.read_write, BitVec.toNat_inj]

/-- Settles O47: the decoder equation, the two ends of an instruction with one load, and the
commutative sum. -/
theorem loadWordResult : Obligations.LoadWordResult := by
  intro p w s rd ra ro ea hea
  rw [← effectiveAddress_eq] at hea
  subst hea
  simp only [exec_ldw]
  refine ⟨decode_ldw p, fun hvalid => ?_, fun hvalid => ?_, ?_⟩
  · exact finishAccess_memRead.mpr (.inl ⟨hvalid, rfl⟩)
  · exact finishAccess_memRead.mpr (.inr ⟨hvalid, rfl⟩)
  · rw [effectiveAddress_comm]

/-- Settles O48: the decoder equation and the three ends of an instruction with one store. -/
theorem storeWordResult : Obligations.StoreWordResult := by
  intro p w s rd ra ro ea hea
  rw [← effectiveAddress_eq] at hea
  subst hea
  simp only [exec_sdw, finishAccess_memWrite]
  refine ⟨decode_sdw p, fun hvalid htext => ?_, fun hvalid htext => ?_, fun hvalid => ?_⟩
  · exact ⟨_, .inl ⟨hvalid, htext, rfl⟩, storedWord_write _ _ _⟩
  · exact .inr (.inr ⟨hvalid, htext, rfl⟩)
  · exact .inr (.inl ⟨hvalid, rfl⟩)

end Sys2Proof
end

section
/-! SUPPORT. RET and ABR: the state each of the two leaves; then the two statements built from them
and from the decoder equations `decode_ret` and `decode_abr`. -/

namespace Sys2Proof

open Machine

/-! ## What they do (43_control_transfer.md R157, R158) -/

theorem exec_ret (s : State) : exec .ret s = .next { s with pc := s.lr } := rfl

theorem exec_abr (s : State) (ra : Reg) : exec (.abr ra) s = .next { s with pc := s.reg ra } := rfl

/-- Settles O52: bits 10 to 3 take no part in the decoder equation of condition 010, and the meaning
writes PC alone. -/
theorem returnResult : Obligations.ReturnResult :=
  ⟨fun p _ => decode_ret p, exec_ret⟩

/-- Settles O53: bits 10 to 6 take no part in the decoder equation of condition 001, and the meaning
writes PC alone. -/
theorem absoluteBranchResult : Obligations.AbsoluteBranchResult :=
  ⟨fun p _ => decode_abr p, exec_abr⟩

end Sys2Proof
end

section
/-! SUPPORT. The encoding laws (95_test_vectors.md T11 laws 1 and 2): the rows of the decoder as a
relation between a word and its instruction, the fields of an encoded word, and an encoded word put
together again from the fields of a decoded one. -/

namespace Sys2Proof

/-! ## The rows of the decoder (30_encoding.md R62 to R70, R75) -/

/-- `Reads p w i`: the row of `i` in 30_encoding.md R75 matches `w`, and the operands of `i` are the
fields of `w`. One constructor for each row, with the operands as the row places them. -/
inductive Reads (p : Params) (w : Word) : Instr → Prop
  | add (h : opcodeBits w = 0b00100#5) : Reads p w (.add (rdField w) (raField w) (rbField w))
  | addi (h : opcodeBits w = 0b00101#5) : Reads p w (.addi (rdField w) (raField w) (imm5Field w))
  | addib (h : opcodeBits w = 0b11000#5) : Reads p w (.addib (rdField w) (imm8Field w))
  | adc (h : opcodeBits w = 0b00110#5) : Reads p w (.adc (rdField w) (raField w) (rbField w))
  | adci (h : opcodeBits w = 0b00111#5) : Reads p w (.adci (rdField w) (raField w) (imm5Field w))
  | neg (h : opcodeBits w = 0b01000#5) : Reads p w (.neg (rdField w))
  | sub (h : opcodeBits w = 0b01001#5) : Reads p w (.sub (rdField w) (raField w) (rbField w))
  | subi (h : opcodeBits w = 0b01010#5) : Reads p w (.subi (rdField w) (raField w) (imm5Field w))
  | subib (h : opcodeBits w = 0b11001#5) : Reads p w (.subib (rdField w) (imm8Field w))
  | suc (h : opcodeBits w = 0b01011#5) : Reads p w (.suc (rdField w) (raField w) (rbField w))
  | suci (h : opcodeBits w = 0b01100#5) : Reads p w (.suci (rdField w) (raField w) (imm5Field w))
  | cmp (h : opcodeBits w = 0b01101#5) : Reads p w (.cmp (raField w) (rbField w))
  | and (h : opcodeBits w = 0b10000#5) : Reads p w (.and (rdField w) (raField w) (rbField w))
  | or (h : opcodeBits w = 0b10001#5) : Reads p w (.or (rdField w) (raField w) (rbField w))
  | xor (h : opcodeBits w = 0b10010#5) : Reads p w (.xor (rdField w) (raField w) (rbField w))
  | not (h : opcodeBits w = 0b10011#5) : Reads p w (.not (rdField w) (raField w))
  | nand (h : opcodeBits w = 0b10100#5) : Reads p w (.nand (rdField w) (raField w) (rbField w))
  | nor (h : opcodeBits w = 0b10101#5) : Reads p w (.nor (rdField w) (raField w) (rbField w))
  | lsl (h : opcodeBits w = 0b00001#5) : Reads p w (.lsl (rdField w) (raField w) (imm4Field p w))
  | lsr (h : opcodeBits w = 0b00010#5) : Reads p w (.lsr (rdField w) (raField w) (imm4Field p w))
  | asr (h : opcodeBits w = 0b00011#5) : Reads p w (.asr (rdField w) (raField w) (imm4Field p w))
  | ldw (h : opcodeBits w = 0b11101#5) (hls : w.getLsbD 9 = true) :
      Reads p w (.ldw (rdField w) (raField w) (rbField w))
  | sdw (h : opcodeBits w = 0b11101#5) (hls : w.getLsbD 9 = false) :
      Reads p w (.sdw (rdField w) (raField w) (rbField w))
  | lui (h : opcodeBits w = 0b11010#5) : Reads p w (.lui (rdField w) (imm8Field w))
  | lli (h : opcodeBits w = 0b11011#5) : Reads p w (.lli (rdField w) (imm8Field w))
  | br (h : opcodeBits w = 0b11111#5) (hc : w.extractLsb' 0 3 = 0b000#3) :
      Reads p w (.br (imm8Field w))
  | bne (h : opcodeBits w = 0b11111#5) (hc : w.extractLsb' 0 3 = 0b110#3) :
      Reads p w (.bne (imm8Field w))
  | be (h : opcodeBits w = 0b11111#5) (hc : w.extractLsb' 0 3 = 0b111#3) :
      Reads p w (.be (imm8Field w))
  | blt (h : opcodeBits w = 0b11111#5) (hc : w.extractLsb' 0 3 = 0b100#3) :
      Reads p w (.blt (imm8Field w))
  | bge (h : opcodeBits w = 0b11111#5) (hc : w.extractLsb' 0 3 = 0b101#3) :
      Reads p w (.bge (imm8Field w))
  | bwl (h : opcodeBits w = 0b11111#5) (hc : w.extractLsb' 0 3 = 0b011#3) :
      Reads p w (.bwl (imm8Field w))
  | ret (h : opcodeBits w = 0b11111#5) (hc : w.extractLsb' 0 3 = 0b010#3) : Reads p w .ret
  | abr (h : opcodeBits w = 0b11111#5) (hc : w.extractLsb' 0 3 = 0b001#3) :
      Reads p w (.abr (raField w))
  | push (h : opcodeBits w = 0b11100#5) (hpop : isPopWord p w = false) :
      Reads p w (.push (stackOperandField w))
  | pop (h : opcodeBits w = 0b11100#5) (hpop : isPopWord p w = true) :
      Reads p w (.pop (stackOperandField w))
  | undefined00000 (h : opcodeBits w = 0b00000#5) : Reads p w (.undefined00000 w)
  | undefined01110 (h : opcodeBits w = 0b01110#5) : Reads p w (.undefined01110 w)
  | undefined01111 (h : opcodeBits w = 0b01111#5) : Reads p w (.undefined01111 w)
  | undefined10110 (h : opcodeBits w = 0b10110#5) : Reads p w (.undefined10110 w)
  | undefined10111 (h : opcodeBits w = 0b10111#5) : Reads p w (.undefined10111 w)
  | undefined11110 (h : opcodeBits w = 0b11110#5) : Reads p w (.undefined11110 w)

/-- The decoder answers the row that matches. -/
theorem Reads.decode_eq {p : Params} {w : Word} {i : Instr} (h : Reads p w i) : decode p w = i := by
  cases h
  case ldw h hls => exact decode_ldw p h hls
  case sdw h hls => exact decode_sdw p h hls
  case push h hpop => simp [decode_eq_decodeStack p h, decodeStack, hpop]
  case pop h hpop => simp [decode_eq_decodeStack p h, decodeStack, hpop]
  case br h hc | bne h hc | be h hc | blt h hc | bge h hc | bwl h hc | ret h hc | abr h hc =>
    simp [decode_eq_decodeControl p h, decodeControl, lowField_bits hc]
  all_goals simp [decode, opcodeBits_bits ‹_›]

/-- Three bits give the lowest field: the converse of `lowField_bits`, in the decoder's spelling. -/
theorem lowField_eq_of_bits {w : Word} {cond : BitVec 3} (h2 : w.getLsbD 2 = cond.getLsbD 2)
    (h1 : w.getLsbD 1 = cond.getLsbD 1) (h0 : w.getLsbD 0 = cond.getLsbD 0) :
    w.extractLsb' 0 3 = cond := by
  refine BitVec.eq_of_getLsbD_eq fun k hk => ?_
  have hk' : k = 0 ∨ k = 1 ∨ k = 2 := by omega
  rcases hk' with rfl | rfl | rfl <;> simpa

/-- Some row matches every word: the one the decoder answers (30_encoding.md R70). The three named
cases are the lines of opcodes 11100, 11101 and 11111. -/
theorem reads_decode (p : Params) (w : Word) : Reads p w (decode p w) := by
  unfold decode
  split <;> rename_i h15 h14 h13 h12 h11
  case h_29 =>
    have h : opcodeBits w = 0b11100#5 := opcodeBits_eq_of_bits h15 h14 h13 h12 h11
    unfold decodeStack
    split
    · exact .pop h ‹_›
    · exact .push h (eq_false_of_ne_true ‹_›)
  case h_30 =>
    have h : opcodeBits w = 0b11101#5 := opcodeBits_eq_of_bits h15 h14 h13 h12 h11
    unfold decodeTransfer
    split
    · exact .ldw h ‹_›
    · exact .sdw h (eq_false_of_ne_true ‹_›)
  case h_32 =>
    have h : opcodeBits w = 0b11111#5 := opcodeBits_eq_of_bits h15 h14 h13 h12 h11
    unfold decodeControl
    split <;> rename_i h2 h1 h0
    all_goals constructor; exacts [h, lowField_eq_of_bits h2 h1 h0]
  all_goals constructor; exact opcodeBits_eq_of_bits h15 h14 h13 h12 h11

end Sys2Proof
end

section
/-! SUPPORT. What the decoder answers and what the encoder keeps: the statements about fields and
about UNDEFINED words from the rows of the decoder, and decoding an encoded instruction. -/

namespace Sys2Proof

/-! ## The fields of each format, and the UNDEFINED words (30_encoding.md R62 to R73) -/

/-- Settles O8: the matching row for each opcode of the two formats. -/
theorem fieldsOfFormatsAAndC : Obligations.FieldsOfFormatsAAndC := by
  intro p w rd ra rb hrd hra hrb
  obtain rfl : rdField w = rd := regField_eq hrd
  obtain rfl : raField w = ra := regField_eq hra
  obtain rfl : rbField w = rb := regField_eq hrb
  have hcond (h1 : rdField w = 1) : w.extractLsb' 0 3 = 0b001#3 :=
    BitVec.eq_of_toNat_eq (congrArg Fin.val h1)
  exact ⟨fun h => (Reads.add h).decode_eq, fun h => (Reads.adc h).decode_eq,
    fun h => (Reads.sub h).decode_eq, fun h => (Reads.suc h).decode_eq,
    decode_and p, decode_or p, decode_xor p, decode_nand p, decode_nor p,
    fun h => (Reads.neg h).decode_eq, decode_not p, fun h => (Reads.cmp h).decode_eq,
    decode_ldw p, decode_sdw p, fun h h1 => decode_abr p h (hcond h1)⟩

/-- Settles O9: the matching row for each opcode, `imm4` and the direction bit read as the
parameters place them. -/
theorem fieldsOfImmediateAndStackFormats : Obligations.FieldsOfImmediateAndStackFormats := by
  rintro p w rd ra imm5 imm4 operand hrd hra rfl himm4 hoperand
  obtain rfl : rdField w = rd := regField_eq hrd
  obtain rfl : raField w = ra := regField_eq hra
  obtain rfl : imm4 = imm4Field p w := himm4
  obtain rfl : operand = stackOperandField w := hoperand
  have hpop : isPopWord p w =
      (w.getLsbD (p.stackDirBit.place.val + 3) == p.stackDirBit.popValue) := by
    rw [isPopWord, Nat.add_comm]
  exact ⟨fun h => (Reads.addi h).decode_eq, fun h => (Reads.adci h).decode_eq,
    fun h => (Reads.subi h).decode_eq, fun h => (Reads.suci h).decode_eq,
    fun h => (Reads.lsl h).decode_eq, fun h => (Reads.lsr h).decode_eq,
    fun h => (Reads.asr h).decode_eq,
    fun h hbit => (Reads.pop h (by simpa [hpop] using hbit)).decode_eq,
    fun h hbit => (Reads.push h (by simpa [hpop] using hbit)).decode_eq⟩

/-- Settles O10: the decoder evaluated at the twelve words. -/
theorem writtenWordsDecode : Obligations.WrittenWordsDecode := by
  unfold Obligations.WrittenWordsDecode
  decide

/-- Settles O4: an UNDEFINED row matches words of its own opcode only, and every other row is well
formed whatever its operands. -/
theorem decodedInstructionsAreWellFormed : Obligations.DecodedInstructionsAreWellFormed := by
  intro p w
  refine ⟨?_, decode_opcode p w⟩
  have hrow := reads_decode p w
  generalize decode p w = i at hrow
  cases hrow
  case undefined00000 h | undefined01110 h | undefined01111 h | undefined10110 h |
      undefined10111 h | undefined11110 h => simp [Instr.wellFormed, h]
  all_goals rfl

/-- The UNDEFINED rows are those of six opcodes (30_encoding.md R73). -/
theorem isUndefined_iff_opcode (i : Instr) :
    i.isUndefined = true ↔
      i.opcode ∈ [0b00000#5, 0b01110#5, 0b01111#5, 0b10110#5, 0b10111#5, 0b11110#5] := by
  cases i <;> simp [Instr.isUndefined, Instr.opcode]

/-- An opcode holds one block of 2048 words. -/
theorem opcodeBits_eq_iff {w : Word} {op : BitVec 5} :
    opcodeBits w = op ↔ w.toNat / 2048 = op.toNat := by
  have hw := w.isLt
  have hop := op.isLt
  rw [← BitVec.toNat_inj, opcodeBits, BitVec.extractLsb'_toNat, Nat.shiftRight_eq_div_pow]
  omega

/-- Settles O5: the six UNDEFINED opcodes, two pairs of them next to each other, hold 2048 words
each. -/
theorem undefinedWordsAreFourBlocks : Obligations.UndefinedWordsAreFourBlocks := by
  intro p w
  have hw := w.isLt
  rw [isUndefined_iff_opcode, decode_opcode]
  simp only [List.mem_cons, List.not_mem_nil, or_false, opcodeBits_eq_iff, BitVec.toNat_ofNat]
  omega

/-! ## The fields of an encoded word -/

@[simp] theorem toFin_regBits (r : Reg) : (regBits r).toFin = r :=
  Fin.ext (by simp [regBits])

theorem regBits_regField (w : Word) (lo : Nat) : regBits (regField w lo) = w.extractLsb' lo 3 :=
  BitVec.eq_of_toNat_eq (by simp [regBits, regField])

section
open BitVec

variable (op imm5 : BitVec 5) (rb ra : BitVec 3) (r s t : Reg)

/-- The register in the lowest three bits, below any other fields. -/
theorem rdField_append (hi : BitVec 13) : rdField (hi ++ regBits r) = r :=
  (congrArg BitVec.toFin extractLsb'_append_eq_right).trans (toFin_regBits r)

theorem raField_append (hi : BitVec 10) (low : BitVec 3) :
    raField (hi ++ regBits r ++ low) = r :=
  (congrArg BitVec.toFin ((extractLsb'_append_eq_of_le (by decide)).trans
    extractLsb'_append_eq_right)).trans (toFin_regBits r)

theorem rbField_append (hi : BitVec 7) (mid low : BitVec 3) :
    rbField (hi ++ regBits r ++ mid ++ low) = r :=
  (congrArg BitVec.toFin ((extractLsb'_append_eq_of_le (by decide)).trans
    ((extractLsb'_append_eq_of_le (by decide)).trans
    extractLsb'_append_eq_right))).trans (toFin_regBits r)

@[simp] theorem rdField_encodeA : rdField (encodeA op rb ra (regBits r)) = r := rdField_append _ _

@[simp] theorem raField_encodeA : raField (encodeA op rb (regBits r) ra) = r :=
  raField_append _ _ _

@[simp] theorem rbField_encodeA : rbField (encodeA op (regBits r) rb ra) = r :=
  rbField_append _ _ _ _

@[simp] theorem rdField_encodeImm5 : rdField (encodeImm5 op imm5 s r) = r := rdField_append _ _

@[simp] theorem raField_encodeImm5 : raField (encodeImm5 op imm5 r s) = r := raField_append _ _ _

@[simp] theorem imm5Field_encodeImm5 : imm5Field (encodeImm5 op imm5 r s) = imm5 :=
  (extractLsb'_append_eq_of_le (by decide)).trans
    ((extractLsb'_append_eq_of_le (by decide)).trans extractLsb'_append_eq_right)

/-- imm4 as a part of the imm5 field. -/
theorem imm4Field_eq (p : Params) (w : Word) : imm4Field p w =
    match p.imm4Pos with
    | .low => (imm5Field w).extractLsb' 0 4
    | .high => (imm5Field w).extractLsb' 1 4 := by
  have hsub (k : Nat) (hk : k + 4 ≤ 5) :
      (imm5Field w).extractLsb' k 4 = w.extractLsb' (6 + k) 4 := by
    ext j hj
    simp [imm5Field, show k + j < 5 by omega, Nat.add_assoc]
  cases h : p.imm4Pos <;> simp [imm4Field, h, hsub]

@[simp] theorem imm4Field_encodeImm5 (p : Params) (imm4 : BitVec 4) :
    imm4Field p (encodeImm5 op (imm4Bits p imm4) r s) = imm4 := by
  rw [imm4Field_eq, imm5Field_encodeImm5]
  cases h : p.imm4Pos <;> simp only [imm4Bits, h]
  · exact extractLsb'_append_eq_right
  · exact extractLsb'_append_eq_left

@[simp] theorem rdField_encodeImm8 (imm8 : BitVec 8) :
    rdField (encodeImm8 op imm8 (regBits r)) = r := rdField_append _ _

@[simp] theorem imm8Field_encodeImm8 (imm8 : BitVec 8) (low : BitVec 3) :
    imm8Field (encodeImm8 op imm8 low) = imm8 :=
  (extractLsb'_append_eq_of_le (by decide)).trans extractLsb'_append_eq_right

theorem lowField_encodeImm8 (imm8 : BitVec 8) (low : BitVec 3) :
    (encodeImm8 op imm8 low).extractLsb' 0 3 = low := extractLsb'_append_eq_right

/-- ABR's register is the low part of the place of imm8. -/
@[simp] theorem raField_encodeImm8 (hi : BitVec 5) (low : BitVec 3) :
    raField (encodeImm8 op (hi ++ regBits r) low) = r :=
  (congrArg BitVec.toFin ((extractLsb'_append_eq_of_le (by decide)).trans
    ((extractLsb'_append_eq_of_add_le (by decide)).trans
    extractLsb'_append_eq_right))).trans (toFin_regBits r)

@[simp] theorem rdField_encodeC (ls : BitVec 1) : rdField (encodeC ls s t r) = r :=
  rdField_append _ _

@[simp] theorem raField_encodeC (ls : BitVec 1) : raField (encodeC ls s r t) = r :=
  raField_append _ _ _

@[simp] theorem rbField_encodeC (ls : BitVec 1) : rbField (encodeC ls r s t) = r :=
  rbField_append _ _ _ _

/-- The bit LS, in the spelling that `simp` gives the decoder's test of it. -/
@[simp] theorem getElem_encodeC (ls : BitVec 1) : (encodeC ls r s t)[9] = ls.getLsbD 0 :=
  getLsbD_append.trans (getLsbD_append.trans (getLsbD_append.trans getLsbD_append))

theorem getLsbD_encodeE_link (p : Params) (pop : Bool) (operand : StackOperand) :
    (encodeE p pop operand).getLsbD 10 = decide (operand = .link) := by
  cases operand <;> exact getLsbD_append.trans (getLsbD_append.trans getLsbD_append)

theorem getLsbD_encodeE_dir (p : Params) (pop : Bool) (operand : StackOperand) (k : Fin 7) :
    (encodeE p pop operand).getLsbD (3 + k.val) = (stackDirBits p pop).getLsbD k.val := by
  have hdir {hi : BitVec 6} {dir : BitVec 7} {low : BitVec 3} :
      (hi ++ dir ++ low).getLsbD (3 + k.val) = dir.getLsbD k.val := by
    rw [getLsbD_append, if_neg (by omega), getLsbD_append, if_pos (by omega),
      Nat.add_sub_cancel_left]
  cases operand <;> exact hdir

@[simp] theorem isPopWord_encodeE (p : Params) (pop : Bool) (operand : StackOperand) :
    isPopWord p (encodeE p pop operand) = pop := by
  rw [isPopWord, getLsbD_encodeE_dir, stackDirBits]
  cases pop <;> cases p.stackDirBit.popValue <;> simp

@[simp] theorem stackOperandField_encodeE (p : Params) (pop : Bool) (operand : StackOperand) :
    stackOperandField (encodeE p pop operand) = operand := by
  rw [stackOperandField, getLsbD_encodeE_link]
  cases operand with
  | link => simp
  | reg r => exact congrArg StackOperand.reg (rdField_append r _)

end

/-! ## Decoding an encoded instruction -/

open Laws.OpcodeOf in
/-- The family `Laws.OpcodeOf`, over every instruction (30_encoding.md R61, R75). -/
theorem opcodeBits_encode (p : Params) {i : Instr} (h : i.wellFormed = true) :
    opcodeBits (encode p i) = i.opcode := by
  cases i
  case undefined00000 | undefined01110 | undefined01111 | undefined10110 | undefined10111 |
      undefined11110 => exact eq_of_beq h
  case ldw | sdw => exact opcodeBits_encodeC _ _ _ _
  case push | pop => exact opcodeBits_encodeE _ _ _
  case addi | adci | subi | suci | lsl | lsr | asr => exact opcodeBits_encodeImm5 _ _ _ _
  case addib | subib | lui | lli | br | bne | be | blt | bge | bwl | ret | abr =>
    exact opcodeBits_encodeImm8 _ _ _
  all_goals exact opcodeBits_encodeA _ _ _ _

/-- Settles O1: the encoded word carries the row's opcode, so the decoder takes the line of that
row, and each of its fields is the operand encoded there. -/
theorem decodeOfEncodeIsIdentity : Obligations.DecodeOfEncodeIsIdentity := by
  intro p i hwf
  have hop := opcodeBits_encode p hwf
  cases i <;> simp only [encode, Instr.opcode, BitVec.ofNat_eq_ofNat] at hop ⊢
  case ldw | sdw =>
    simp [decode_eq_decodeTransfer p hop, decodeTransfer]
  case push | pop =>
    simp [decode_eq_decodeStack p hop, decodeStack]
  case br | bne | be | blt | bge | bwl | ret | abr =>
    simp [decode_eq_decodeControl p hop, decodeControl, lowField_bits (lowField_encodeImm8 _ _ _)]
  all_goals simp [decode, opcodeBits_bits hop]

end Sys2Proof
end

section
/-! SUPPORT. An encoded word put together again from the fields of a decoded one: encoding what was
decoded keeps the used bits, and the used bits fix the instruction. -/

namespace Sys2Proof

/-! ## Masking a word field by field -/

/-- A masked run of bits is its masked upper part above its masked lower part. -/
theorem extractLsb'_and_append {n a b : Nat} (w : BitVec n) (lo : Nat) (hi : BitVec a)
    (low : BitVec b) :
    w.extractLsb' lo (a + b) &&& (hi ++ low) =
      (w.extractLsb' (lo + b) a &&& hi) ++ (w.extractLsb' lo b &&& low) := by
  rw [← BitVec.extractLsb'_append_extractLsb'_eq_extractLsb' rfl, BitVec.and_append]

/-- The same for a whole word. -/
theorem word_and_append {a b : Nat} (w : BitVec (a + b)) (hi : BitVec a) (low : BitVec b) :
    w &&& (hi ++ low) = (w.extractLsb' b a &&& hi) ++ (w.extractLsb' 0 b &&& low) := by
  rw [← BitVec.and_append, BitVec.extractLsb'_append_extractLsb']

/-- Masking with ones changes nothing; `decide` finds that a literal mask is one of ones. -/
theorem and_ones {n : Nat} {x m : BitVec n} (h : m = BitVec.allOnes n) : x &&& m = x :=
  h ▸ BitVec.and_allOnes

/-- The direction bit alone of `w[9:3]`, as the encoder of PUSH and POP writes it. -/
theorem stackDirBits_isPopWord (p : Params) (w : Word) :
    stackDirBits p (isPopWord p w) = w.extractLsb' 3 7 &&& (1#7 <<< p.stackDirBit.place.val) := by
  have hdir : isPopWord p w = p.stackDirBit.popValue ↔
      w.getLsbD (3 + p.stackDirBit.place.val) = true := by
    rw [isPopWord]
    cases p.stackDirBit.popValue <;> simp
  have honeHot := BitVec.and_twoPow (w.extractLsb' 3 7) p.stackDirBit.place.val
  rw [BitVec.twoPow] at honeHot
  simp [honeHot, stackDirBits, hdir]

section
variable {w : Word} {op : BitVec 5} (h : opcodeBits w = op)
include h

/-- A word of format A (register), its X bits cleared and its register fields masked. -/
theorem and_eq_encodeA (mb ma md : BitVec 3) :
    w &&& (31#5 ++ 0#2 ++ mb ++ ma ++ md) =
      encodeA op (regBits (rbField w) &&& mb) (regBits (raField w) &&& ma)
        (regBits (rdField w) &&& md) := by
  subst h
  refine (word_and_append (a := 5 + 2 + 3 + 3) (b := 3) w _ _).trans ?_
  simp (disch := decide) only [extractLsb'_and_append, and_ones, BitVec.and_zero, rbField, raField,
    rdField, regBits_regField]
  rfl

/-- A word with the place of imm5 masked. -/
theorem and_eq_encodeImm5 (m : BitVec 5) :
    w &&& (31#5 ++ m ++ 7#3 ++ 7#3) =
      encodeImm5 op (imm5Field w &&& m) (raField w) (rdField w) := by
  subst h
  refine (word_and_append (a := 5 + 5 + 3) (b := 3) w _ _).trans ?_
  simp (disch := decide) only [extractLsb'_and_append, and_ones, encodeImm5, raField, rdField,
    regBits_regField]
  rfl

/-- A word with the place of imm8 masked. -/
theorem and_eq_encodeImm8 (m : BitVec 8) :
    w &&& (31#5 ++ m ++ 7#3) = encodeImm8 op (imm8Field w &&& m) (w.extractLsb' 0 3) := by
  subst h
  refine (word_and_append (a := 5 + 8) (b := 3) w _ _).trans ?_
  simp (disch := decide) only [extractLsb'_and_append, and_ones]
  rfl

end

/-- A word of format C with its X bit cleared. -/
theorem and_eq_encodeC {w : Word} (h : opcodeBits w = 0b11101#5) :
    w &&& (31#5 ++ 0#1 ++ 1#1 ++ 7#3 ++ 7#3 ++ 7#3) =
      encodeC (w.extractLsb' 9 1) (rbField w) (raField w) (rdField w) := by
  refine (word_and_append (a := 5 + 1 + 1 + 3 + 3) (b := 3) w _ _).trans ?_
  simp (disch := decide) only [extractLsb'_and_append, and_ones, BitVec.and_zero, encodeC, ← h,
    rbField, raField, rdField, regBits_regField]
  rfl

/-- A word of format E with its X bits cleared and its register field masked. -/
theorem and_eq_encodeE (p : Params) {w : Word} (h : opcodeBits w = 0b11100#5) (m : BitVec 3) :
    w &&& (31#5 ++ 1#1 ++ (1#7 <<< p.stackDirBit.place.val) ++ m) =
      (0b11100#5 ++ w.extractLsb' 10 1 ++ stackDirBits p (isPopWord p w) ++
        (regBits (rdField w) &&& m) : BitVec 16) := by
  refine (word_and_append (a := 5 + 1 + 7) (b := 3) w _ _).trans ?_
  rw [stackDirBits_isPopWord, ← h, rdField, regBits_regField]
  simp only [extractLsb'_and_append]
  simp (disch := decide) only [and_ones]
  rfl

/-! ## Encoding a decoded word -/

theorem extractLsb'_one {w : Word} {k : Nat} {b : Bool} (h : w.getLsbD k = b) :
    w.extractLsb' k 1 = BitVec.ofBool b := by
  subst h
  ext j hj
  simp [show j = 0 by omega]

/-- imm4 in its place is the place of imm5 without its unused bit (30_encoding.md R64). -/
theorem imm4Bits_imm4Field (p : Params) (w : Word) : imm4Bits p (imm4Field p w) =
    imm5Field w &&& (match p.imm4Pos with | .low => 0b01111#5 | .high => 0b11110#5) := by
  rw [imm4Field_eq]
  cases hpos : p.imm4Pos <;> simp only [imm4Bits, hpos]
  · refine Eq.trans ?_ (word_and_append (a := 1) (b := 4) (imm5Field w) 0#1 15#4).symm
    simp (disch := decide) only [and_ones, BitVec.and_zero]
  · refine Eq.trans ?_ (word_and_append (a := 4) (b := 1) (imm5Field w) 15#4 0#1).symm
    simp (disch := decide) only [and_ones, BitVec.and_zero]

/-- A shift's word with its unused bit cleared. -/
theorem encodeImm5_imm4Field {p : Params} {w : Word} {op : BitVec 5} (h : opcodeBits w = op) :
    encodeImm5 op (imm4Bits p (imm4Field p w)) (raField w) (rdField w) =
      w &&& (match p.imm4Pos with | .low => 0xFBFF#16 | .high => 0xFFBF#16) := by
  rw [imm4Bits_imm4Field, ← and_eq_encodeImm5 h]
  cases p.imm4Pos <;> rfl

/-- ABR's register in the place of imm8 is that place without its unused bits
(30_encoding.md R68). -/
theorem regBits_raField_append (w : Word) : 0#5 ++ regBits (raField w) = imm8Field w &&& 7#8 := by
  refine Eq.trans ?_ (word_and_append (a := 5) (b := 3) (imm8Field w) 0#5 7#3).symm
  have hra : (imm8Field w).extractLsb' 0 3 = w.extractLsb' 3 3 := by
    ext j hj
    simp [imm8Field, show j < 8 by omega]
  simp (disch := decide) only [and_ones, BitVec.and_zero, hra, raField, regBits_regField]

theorem encodeImm8_raField {w : Word} (h : opcodeBits w = 0b11111#5)
    (hc : w.extractLsb' 0 3 = 0b001#3) :
    encodeImm8 0b11111#5 (0#5 ++ regBits (raField w)) 0b001#3 = w &&& 0xF83F#16 := by
  rw [regBits_raField_append, ← hc]
  exact (and_eq_encodeImm8 h 7#8).symm

/-- The word of PUSH or POP with its X bits and an unused register field cleared
(30_encoding.md R69, R81). -/
theorem encodeE_fields (p : Params) {w : Word} {pop : Bool} (h : opcodeBits w = 0b11100#5)
    (hpop : isPopWord p w = pop) :
    encodeE p pop (stackOperandField w) = w &&&
      ((if w.getLsbD 10 = true then 0xFC00#16 else 0xFC07#16) |||
        (0x0008#16 <<< p.stackDirBit.place.val)) := by
  have hmask (k : Fin 7) : (31#5 ++ 1#1 ++ (1#7 <<< k.val) ++ 7#3 : BitVec 16) =
        0xFC07#16 ||| (0x0008#16 <<< k.val) ∧
      (31#5 ++ 1#1 ++ (1#7 <<< k.val) ++ 0#3 : BitVec 16) =
        0xFC00#16 ||| (0x0008#16 <<< k.val) := by
    revert k
    decide
  obtain ⟨hreg, hlink⟩ := hmask p.stackDirBit.place
  subst hpop
  rw [stackOperandField]
  cases hL : w.getLsbD 10
  · refine Eq.trans ?_ ((congrArg (w &&& ·) hreg.symm).trans (and_eq_encodeE p h 7#3)).symm
    rw [extractLsb'_one hL, and_ones (m := 7#3) rfl]
    rfl
  · refine Eq.trans ?_ ((congrArg (w &&& ·) hlink.symm).trans (and_eq_encodeE p h 0#3)).symm
    rw [extractLsb'_one hL, BitVec.and_zero]
    rfl

/-- The used bits of PUSH and POP, by the bit L that selects the operand. -/
theorem usedBits_push (p : Params) (w : Word) : usedBits p (.push (stackOperandField w)) =
    (if w.getLsbD 10 = true then 0xFC00#16 else 0xFC07#16) |||
      (0x0008#16 <<< p.stackDirBit.place.val) := by
  unfold stackOperandField
  split <;> rfl

theorem usedBits_pop (p : Params) (operand : StackOperand) :
    usedBits p (.pop operand) = usedBits p (.push operand) := by
  cases operand <;> rfl

/-- Settles O2: each row's used bits are the masks of its format's fields. -/
theorem encodeOfDecodeClearsUnusedBits : Obligations.EncodeOfDecodeClearsUnusedBits := by
  intro p w
  have hrow := reads_decode p w
  generalize decode p w = i at hrow ⊢
  cases hrow
  case neg h =>
    simpa (disch := decide) [encode, usedBits, and_ones] using (and_eq_encodeA h 0 0 7).symm
  case not h =>
    simpa (disch := decide) [encode, usedBits, and_ones] using (and_eq_encodeA h 0 7 7).symm
  case cmp h =>
    simpa (disch := decide) [encode, usedBits, and_ones] using (and_eq_encodeA h 7 7 0).symm
  case add h | adc h | sub h | suc h | and h | or h | xor h | nand h | nor h =>
    simpa (disch := decide) [encode, usedBits, and_ones] using (and_eq_encodeA h 7 7 7).symm
  case addi h | adci h | subi h | suci h =>
    simpa (disch := decide) [encode, usedBits, and_ones] using (and_eq_encodeImm5 h 31).symm
  case lsl h | lsr h | asr h => exact encodeImm5_imm4Field h
  case addib h | subib h | lui h | lli h =>
    simpa (disch := decide) [encode, usedBits, and_ones, rdField, regBits_regField] using
      (and_eq_encodeImm8 h 255).symm
  case ret h hc => simpa [encode, usedBits, hc] using (and_eq_encodeImm8 h 0).symm
  case abr h hc => exact encodeImm8_raField h hc
  case br h hc | bne h hc | be h hc | blt h hc | bge h hc | bwl h hc =>
    simpa (disch := decide) [encode, usedBits, and_ones, hc] using (and_eq_encodeImm8 h 255).symm
  case ldw h hls | sdw h hls =>
    simpa [encode, usedBits, extractLsb'_one hls] using (and_eq_encodeC h).symm
  case push h hpop =>
    rw [usedBits_push]
    exact encodeE_fields p h hpop
  case pop h hpop =>
    rw [usedBits_pop, usedBits_push]
    exact encodeE_fields p h hpop
  all_goals exact BitVec.and_allOnes.symm

/-! ## The used bits fix the instruction -/

/-- A field that a mask covers stays covered in a larger mask. -/
theorem extractLsb'_or_eq_allOnes {m : Word} {lo n : Nat}
    (h : m.extractLsb' lo n = BitVec.allOnes n) (m' : Word) :
    (m ||| m').extractLsb' lo n = BitVec.allOnes n := by
  rw [BitVec.extractLsb'_or, h, BitVec.allOnes_or]

/-- PUSH and POP use the opcode and L, whatever the operand and the place of the direction bit. -/
theorem extractLsb'_usedBits_push (p : Params) (operand : StackOperand) :
    (usedBits p (.push operand)).extractLsb' 11 5 = BitVec.allOnes 5 ∧
      (usedBits p (.push operand)).extractLsb' 10 1 = BitVec.allOnes 1 := by
  cases operand <;>
    exact ⟨extractLsb'_or_eq_allOnes (by decide) _, extractLsb'_or_eq_allOnes (by decide) _⟩

/-- Every instruction uses the five bits of the opcode. -/
theorem extractLsb'_usedBits_opcode (p : Params) (i : Instr) :
    (usedBits p i).extractLsb' 11 5 = BitVec.allOnes 5 := by
  cases i
  case push operand => exact (extractLsb'_usedBits_push p operand).1
  case pop operand => exact usedBits_pop p operand ▸ (extractLsb'_usedBits_push p operand).1
  case lsl | lsr | asr => cases h : p.imm4Pos <;> simp [usedBits, h]
  all_goals simp [usedBits]

/-- Every control transfer uses the three bits of the condition. -/
theorem extractLsb'_usedBits_cond (p : Params) {i : Instr} (h : i.opcode = 0b11111#5) :
    (usedBits p i).extractLsb' 0 3 = BitVec.allOnes 3 := by
  cases i
  case br | bne | be | blt | bge | bwl | ret | abr => simp only [usedBits]; decide
  all_goals simp [Instr.opcode] at h

/-- PUSH and POP use the bit L. -/
theorem extractLsb'_usedBits_decodeStack (p : Params) (w : Word) :
    (usedBits p (decodeStack p w)).extractLsb' 10 1 = BitVec.allOnes 1 := by
  unfold decodeStack
  split
  · rw [usedBits_pop]
    exact (extractLsb'_usedBits_push p _).2
  · exact (extractLsb'_usedBits_push p _).2

/-- Two words that agree on the bits of a mask agree on every field that the mask covers. -/
theorem extractLsb'_congr_of_and_eq {w w' m : Word} {lo n : Nat} (h : w &&& m = w' &&& m)
    (hm : m.extractLsb' lo n = BitVec.allOnes n) : w.extractLsb' lo n = w'.extractLsb' lo n := by
  have := congrArg (BitVec.extractLsb' lo n) h
  rwa [BitVec.extractLsb'_and, BitVec.extractLsb'_and, hm, BitVec.and_allOnes,
    BitVec.and_allOnes] at this

/-- Off the two opcodes 11100 and 11111, the opcode fixes which bits are used. -/
theorem usedBits_eq_usedBits_decode_lowestWord (p : Params) (i : Instr)
    (hE : i.opcode ≠ 0b11100#5) (hD : i.opcode ≠ 0b11111#5) :
    usedBits p i = usedBits p (decode p (lowestWord i.opcode)) := by
  cases i
  case push | pop => exact absurd rfl hE
  case br | bne | be | blt | bge | bwl | ret | abr => exact absurd rfl hD
  all_goals simp [Instr.opcode, usedBits, decode, decodeTransfer, lowestWord]

/-- On opcode 11111 the condition fixes which bits are used. -/
theorem usedBits_decodeControl_congr (p : Params) {w w' : Word}
    (h : w.extractLsb' 0 3 = w'.extractLsb' 0 3) :
    usedBits p (decodeControl w) = usedBits p (decodeControl w') := by
  have hbit (k : Nat) (hk : k < 3) : w.getLsbD k = w'.getLsbD k := by
    simpa [hk] using congrArg (BitVec.getLsbD · k) h
  unfold decodeControl
  rw [hbit 2 (by omega), hbit 1 (by omega), hbit 0 (by omega)]
  split <;> rfl

/-- On opcode 11100 the bit L fixes which bits are used. -/
theorem usedBits_decodeStack_congr (p : Params) {w w' : Word}
    (h : w.extractLsb' 10 1 = w'.extractLsb' 10 1) :
    usedBits p (decodeStack p w) = usedBits p (decodeStack p w') := by
  have hL : w.getLsbD 10 = w'.getLsbD 10 := by
    simpa using congrArg (BitVec.getLsbD · 0) h
  have hpush (v : Word) :
      usedBits p (decodeStack p v) = usedBits p (.push (stackOperandField v)) := by
    unfold decodeStack
    split
    · exact usedBits_pop p _
    · rfl
  rw [hpush, hpush, usedBits_push, usedBits_push, hL]

/-- A word uses the same bits as one that agrees with it on the bits it uses. -/
theorem usedBits_decode_congr {p : Params} {w w' : Word}
    (h : w &&& usedBits p (decode p w) = w' &&& usedBits p (decode p w)) :
    usedBits p (decode p w) = usedBits p (decode p w') := by
  have hop : opcodeBits w = opcodeBits w' :=
    extractLsb'_congr_of_and_eq h (extractLsb'_usedBits_opcode p _)
  by_cases hE : opcodeBits w = 0b11100#5
  · rw [decode_eq_decodeStack p hE] at h ⊢
    rw [decode_eq_decodeStack p (hop ▸ hE)]
    exact usedBits_decodeStack_congr p
      (extractLsb'_congr_of_and_eq h (extractLsb'_usedBits_decodeStack p w))
  by_cases hD : opcodeBits w = 0b11111#5
  · rw [decode_eq_decodeControl p hD] at h ⊢
    rw [decode_eq_decodeControl p (hop ▸ hD)]
    exact usedBits_decodeControl_congr p
      (extractLsb'_congr_of_and_eq h (extractLsb'_usedBits_cond p (decodeControl_opcode w)))
  have hrow (v : Word) (hv : opcodeBits w = opcodeBits v) :
      usedBits p (decode p v) = usedBits p (decode p (lowestWord (opcodeBits w))) := by
    rw [hv, ← decode_opcode p v] at hE hD ⊢
    exact usedBits_eq_usedBits_decode_lowestWord p _ hE hD
  exact (hrow w rfl).trans (hrow w' hop).symm

theorem decode_encode_decode (p : Params) (w : Word) :
    decode p (encode p (decode p w)) = decode p w :=
  decodeOfEncodeIsIdentity p _ (decodedInstructionsAreWellFormed p w).1

/-- Settles O3: the two words use the same bits and agree on them, so their instructions have one
encoding, and decoding gives it back as each of the two. -/
theorem unusedBitsDoNotChangeDecoding : Obligations.UnusedBitsDoNotChangeDecoding := by
  intro p w w' h
  have hencode : encode p (decode p w) = encode p (decode p w') := by
    rw [encodeOfDecodeClearsUnusedBits, encodeOfDecodeClearsUnusedBits, ← usedBits_decode_congr h,
      h]
  rw [← decode_encode_decode p w', ← hencode, decode_encode_decode]

end Sys2Proof
end

section
/-! SUPPORT. The assembler: a label's displacement is the one that brings the branch to it, and each
form of a line is the instruction it stands for (30_encoding.md R76, R78). -/

namespace Sys2Proof

open Machine

/-! ## Labels -/

/-- The check of a distance keeps exactly the signed value of the 8 bits it answers. -/
theorem signedByte_eq_some {d : Int} {b : BitVec 8} :
    (if -128 ≤ d ∧ d ≤ 127 then some (BitVec.ofInt 8 d) else none) = some b ↔ d = b.toInt := by
  constructor
  · intro h
    split at h
    · cases h
      rw [BitVec.toInt_ofInt, Int.bmod_eq_of_le] <;> omega
    · cases h
  · rintro rfl
    have hlo := BitVec.le_toInt b
    have hhi := BitVec.toInt_lt (x := b)
    rw [if_pos ⟨by omega, by omega⟩, BitVec.ofInt_toInt]

/-- The assembler's imm8 is the one whose sign-extended value is the distance. -/
theorem asmLabel_eq_some {p : Params} {a label : Word} {imm8 : BitVec 8} :
    asmLabel p a label = some imm8 ↔ branchBaseAddr p a + displacement imm8 = label := by
  have hdisp : imm8.toInt = (displacement imm8).toInt :=
    (BitVec.toInt_signExtend_of_le (by decide)).symm
  rw [asmLabel, signedByte_eq_some, hdisp, BitVec.toInt_inj, BitVec.sub_eq_iff_eq_add,
    BitVec.add_comm, eq_comm]

/-- Settles O11: `asmLabel_eq_some` at the state's own PC. -/
theorem assembledLabelsAreBranchTargets : Obligations.AssembledLabelsAreBranchTargets :=
  fun _ _ _ => asmLabel_eq_some

/-- The same, with the target as the exact integer reduced modulo 65536. -/
theorem asmLabel_eq_some_iff_namesLabel {p : Params} {a label : Word} {imm8 : BitVec 8} :
    asmLabel p a label = some imm8 ↔ namesLabel p a label imm8 := by
  have htarget : branchBaseAddr p a + displacement imm8 = BitVec.ofInt 16 (exactTarget p a imm8) :=
    branchTarget_eq { State.resetWith p with pc := a } imm8
  rw [asmLabel_eq_some, htarget, namesLabel]

/-! ## The operands of a line -/

theorem asmReg_eq_none {n : Nat} : asmReg n = none ↔ 7 < n := by
  simp only [asmReg, dite_eq_right_iff, reduceCtorEq, imp_false]
  omega

theorem asmImm_eq_none {k : Nat} {n : Int} : asmImm k n = none ↔ n < 0 ∨ 2 ^ k ≤ n := by
  simp only [asmImm, ite_eq_right_iff, reduceCtorEq, imp_false]
  omega

theorem asmStackOperand_eq_some {operand : AsmStackOperand} {o : StackOperand} :
    asmStackOperand operand = some o ↔ namesStackOperand operand o := by
  cases operand <;> cases o <;>
    simp [asmStackOperand, namesStackOperand, namesReg, asmReg_eq_some]

/-! ## The forms of a line: the operands are read in turn, and each must stand -/

section
variable {k x y z : Nat} {n : Int} {i : Instr}

theorem three_regs_eq_some {f : Reg → Reg → Reg → Instr} :
    (do return f (← asmReg x) (← asmReg y) (← asmReg z)) = some i ↔ ofThreeRegs f x y z i := by
  simp [ofThreeRegs, namesReg, Option.bind_eq_some_iff, asmReg_eq_some, eq_comm (a := i)]

theorem two_regs_eq_some {f : Reg → Reg → Instr} :
    (do return f (← asmReg x) (← asmReg y)) = some i ↔ ofTwoRegs f x y i := by
  simp [ofTwoRegs, namesReg, Option.bind_eq_some_iff, asmReg_eq_some, eq_comm (a := i)]

theorem one_reg_eq_some {f : Reg → Instr} :
    (do return f (← asmReg x)) = some i ↔ ofOneReg f x i := by
  simp [ofOneReg, namesReg, Option.bind_eq_some_iff, asmReg_eq_some, eq_comm (a := i)]

theorem two_regs_imm_eq_some {f : Reg → Reg → BitVec k → Instr} :
    (do return f (← asmReg x) (← asmReg y) (← asmImm k n)) = some i ↔ ofTwoRegsImm f x y n i := by
  simp [ofTwoRegsImm, namesReg, namesImm, Option.bind_eq_some_iff, asmReg_eq_some, asmImm_eq_some,
    eq_comm (a := i)]

theorem one_reg_imm_eq_some {f : Reg → BitVec k → Instr} :
    (do return f (← asmReg x) (← asmImm k n)) = some i ↔ ofOneRegImm f x n i := by
  simp [ofOneRegImm, namesReg, namesImm, Option.bind_eq_some_iff, asmReg_eq_some, asmImm_eq_some,
    eq_comm (a := i)]

theorem label_eq_some {p : Params} {a label : Word} {f : BitVec 8 → Instr} :
    (do return f (← asmLabel p a label)) = some i ↔ ofLabel f p a label i := by
  simp [ofLabel, Option.bind_eq_some_iff, asmLabel_eq_some_iff_namesLabel, eq_comm (a := i)]

theorem stack_operand_eq_some {operand : AsmStackOperand} {f : StackOperand → Instr} :
    (do return f (← asmStackOperand operand)) = some i ↔
      ∃ o, namesStackOperand operand o ∧ i = f o := by
  simp [Option.bind_eq_some_iff, asmStackOperand_eq_some, eq_comm (a := i)]

end

/-! ## Lines -/

theorem assemble_eq_some {p : Params} {a : Word} {line : AsmInstr} {i : Instr} :
    assemble p a line = some i ↔ line.standsFor p a i := by
  cases line
  case add | adc | sub | suc | and | or | xor | nand | nor | ldw | sdw => exact three_regs_eq_some
  case cmp | not => exact two_regs_eq_some
  case neg | abr => exact one_reg_eq_some
  case addi | adci | subi | suci | lsl | lsr | asr => exact two_regs_imm_eq_some
  case addib | subib | lui | lli => exact one_reg_imm_eq_some
  case br | bne | be | blt | bge | bwl => exact label_eq_some
  case push | pop => exact stack_operand_eq_some
  case ret => exact Option.some_inj.trans eq_comm

/-- A line stands for one of the 35 instructions (30_encoding.md R77). -/
theorem isUndefined_of_standsFor {p : Params} {a : Word} {line : AsmInstr} {i : Instr}
    (h : line.standsFor p a i) : i.isUndefined = false := by
  cases line
  case ret => exact h ▸ rfl
  case neg | abr | br | bne | be | blt | bge | bwl | push | pop =>
    obtain ⟨_, _, rfl⟩ := h
    rfl
  case cmp | not | addib | subib | lui | lli =>
    obtain ⟨_, _, _, _, rfl⟩ := h
    rfl
  all_goals
    obtain ⟨_, _, _, _, _, _, rfl⟩ := h
    rfl

/-- Settles O12: the operand checks, and the forms of a line one by one. -/
theorem assemblerChecksRanges : Obligations.AssemblerChecksRanges := by
  refine ⟨fun _ => asmReg_eq_none, fun _ _ => asmReg_eq_some, fun n => ?_,
    fun _ _ _ => asmImm_eq_some, fun _ _ _ _ => assemble_eq_some,
    fun _ _ _ _ h => isUndefined_of_standsFor (assemble_eq_some.mp h)⟩
  simp only [asmImm_eq_none]
  omega

end Sys2Proof
end

section
/-! SUPPORT. Memory, reset and loading: a load after a store, one canonical list for each content,
and where the host's words come to stand. -/

namespace Sys2Proof

open Machine

/-! ## Stores and loads (20_memory.md R42, R43) -/

/-- Settles O13: a store that succeeds is a write at the backed address. -/
theorem loadSeesLatestStore : Obligations.LoadSeesLatestStore := by
  intro s t addr v h
  obtain ⟨hvalid, -, rfl⟩ := memWrite_eq_ok.mp h
  refine ⟨memRead_eq_ok.mpr ⟨hvalid, ?_⟩, fun b hb => ?_, rfl⟩
  · exact ((storedWord_write s.mem addr v addr).trans (if_pos rfl)).symm
  · have hread := (storedWord_write s.mem addr v b).trans (if_neg hb)
    simp only [State.memRead, hread]

theorem isText_eq_true {s : State} {addr : Word} : s.isText addr = true ↔ addr.toNat ∈ s.text :=
  List.contains_iff_mem

/-- Settles O15: the three answers of a store, in the order of the checks. -/
theorem storeChecksInOrder : Obligations.StoreChecksInOrder := by
  intro s addr v
  refine ⟨fun hvalid => ?_, fun hvalid htext => ?_, fun hvalid htext => ?_⟩
  · exact memWrite_eq_error.mpr (.inl ⟨hvalid, rfl⟩)
  · exact memWrite_eq_error.mpr (.inr ⟨hvalid, isText_eq_true.mpr htext, rfl⟩)
  · rw [← isText_eq_true, Bool.not_eq_true] at htext
    exact ⟨_, memWrite_eq_ok.mpr ⟨hvalid, htext, rfl⟩, storedWord_write _ _ _⟩

/-! ## One list for each content (10_state.md R29) -/

/-- A canonical memory lists no `unlistedWord`, so of two with the same contents neither starts at a
lower address than the other. -/
theorem head_le_of_read_eq {a b : Nat} {w v : Word} {m m' : Memory}
    (hwf : Memory.wf ((a, w) :: m) = true) (hwf' : Memory.wf ((b, v) :: m') = true)
    (h : ∀ k < 65536, Memory.read ((a, w) :: m) k = Memory.read ((b, v) :: m') k) : b ≤ a := by
  obtain ⟨ha, hw, -, -⟩ := Memory.wf_cons.mp hwf
  obtain ⟨-, -, hlt', -⟩ := Memory.wf_cons.mp hwf'
  by_contra hab
  have hab : a < b := Nat.lt_of_not_le hab
  have hunlisted : Memory.read ((b, v) :: m') a = unlistedWord :=
    Memory.read_of_lt (List.forall_mem_cons.mpr ⟨hab, fun c hc => hab.trans (hlt' c hc)⟩)
  have hlisted : Memory.read ((a, w) :: m) a = w := if_pos rfl
  exact hw (by rw [← hlisted, h a ha, hunlisted])

/-- The contents fix the list. -/
theorem eq_of_read_eq {m m' : Memory} (hwf : m.wf = true) (hwf' : m'.wf = true)
    (h : ∀ k < 65536, m.read k = m'.read k) : m = m' := by
  induction m generalizing m' with
  | nil =>
    cases m' with
    | nil => rfl
    | cons cell' rest' =>
      obtain ⟨hb, hv, -, -⟩ := Memory.wf_cons.mp hwf'
      exact absurd ((h _ hb).trans (if_pos rfl)).symm hv
  | cons cell rest ih =>
    obtain ⟨a, w⟩ := cell
    obtain ⟨ha, hw, hlt, hrest⟩ := Memory.wf_cons.mp hwf
    cases m' with
    | nil => exact absurd ((h _ ha).symm.trans (if_pos rfl)).symm hw
    | cons cell' rest' =>
      obtain ⟨b, v⟩ := cell'
      obtain ⟨-, -, hlt', hrest'⟩ := Memory.wf_cons.mp hwf'
      obtain rfl : a = b := Nat.le_antisymm
        (head_le_of_read_eq hwf' hwf fun k hk => (h k hk).symm) (head_le_of_read_eq hwf hwf' h)
      obtain rfl : w = v := by simpa [Memory.read] using h a ha
      congr 1
      refine ih hrest hrest' fun k hk => ?_
      by_cases hka : k = a
      · subst hka
        rw [Memory.read_of_lt hlt, Memory.read_of_lt hlt']
      · simpa [Memory.read, hka] using h k hk

/-- Settles O14: two canonical lists of the same contents start with the same cell, and so on. -/
theorem equalContentsAreEqualMemories : Obligations.EqualContentsAreEqualMemories :=
  fun _ _ hwf hwf' h => eq_of_read_eq hwf hwf' fun k hk => by
    simpa [Nat.mod_eq_of_lt hk] using h (BitVec.ofNat 16 k)

/-! ## Reset (10_state.md R32) -/

/-- Settles O16: the fields of the reset state at the default parameters. -/
theorem resetLeaves : Obligations.ResetLeaves := by
  refine ⟨rfl, rfl, rfl, rfl, ?_, rfl, ?_, rfl⟩
  · decide
  · decide

theorem justReset_iff {s : State} : s.justReset = true ↔
    s.pc = s.params.pcReset ∧ s.sp = s.params.spReset ∧ s.faultMark = none := by
  simp [State.justReset, and_assoc]

/-- Settles O17: the reset state lists no word and no address, whatever the parameters. -/
theorem resetIsCanonical : Obligations.ResetIsCanonical :=
  ⟨rfl, fun _ => ⟨rfl, justReset_iff.mpr ⟨rfl, rfl, rfl⟩⟩⟩

/-! ## Loading (70_reset_and_hazards.md R203) -/

section
variable (s : State) (program data : List (Word × Word))

/-- What loading sets: Mem and IMem as the memory organisation says, and TEXT. -/
theorem load_eq : s.load program data = { s with
    mem := if s.params.memOrg = .unified then (s.mem.load data).load program else s.mem.load data
    imem := if s.params.memOrg = .unified then s.imem else s.imem.load program
    text := textOf program } := by
  cases h : s.params.memOrg <;> simp [State.load, h]

variable {s program data}

theorem wf_load (h : s.wf = true) : (s.load program data).wf = true := by
  simp only [State.wf, Bool.and_eq_true] at h
  obtain ⟨⟨hmem, himem⟩, -⟩ := h
  simp only [load_eq, State.wf, Bool.and_eq_true]
  refine ⟨⟨?_, ?_⟩, textWf_textOf program⟩
  · split
    · exact Memory.wf_load (Memory.wf_load hmem data) program
    · exact Memory.wf_load hmem data
  · split
    · exact himem
    · exact Memory.wf_load himem program

theorem justReset_load (h : s.justReset = true) : (s.load program data).justReset = true := by
  rw [load_eq, justReset_iff]
  exact justReset_iff.mp h

theorem isText_load (a : Word) :
    (s.load program data).isText a = true ↔ a ∈ program.map Prod.fst := by
  rw [isText_eq_true, load_eq]
  simp [mem_textOf, BitVec.toNat_inj]

/-- A program word stands in the memory that fetch reads. -/
theorem fetchedWord_load (hn : (program.map Prod.fst).Nodup) {a w : Word} (h : (a, w) ∈ program) :
    ((s.load program data).setPc a).fetchedWord = w := by
  rw [load_eq]
  cases horg : s.params.memOrg <;> simp [State.fetchedWord, horg, Memory.read_load_of_mem hn h]

/-- Off the program's addresses, or with the program elsewhere, Mem is what the data make it. -/
theorem load_mem_read {a : Word} (h : s.params.memOrg = .harvard ∨ a ∉ program.map Prod.fst) :
    (s.load program data).mem.read a.toNat = (s.mem.load data).read a.toNat := by
  rw [load_eq]
  cases horg : s.params.memOrg with
  | harvard => rfl
  | unified =>
    have ha : a ∉ program.map Prod.fst := h.resolve_left (by simp [horg])
    exact Memory.read_load_of_notMem ha _

theorem load_imem_read {a : Word} (h : s.params.memOrg = .unified ∨ a ∉ program.map Prod.fst) :
    (s.load program data).imem.read a.toNat = s.imem.read a.toNat := by
  rw [load_eq]
  cases horg : s.params.memOrg with
  | unified => rfl
  | harvard =>
    have ha : a ∉ program.map Prod.fst := h.resolve_left (by simp [horg])
    exact Memory.read_load_of_notMem ha _

end

/-- Settles O18: the parts above, and the frame read off `load_eq`. -/
theorem loadingARun : Obligations.LoadingARun := by
  intro s program data
  refine ⟨wf_load, justReset_load, isText_load, fun hn a w h => fetchedWord_load hn h,
    fun hn a w h hoff => ?_, fun a ha hoff => ?_, fun a => load_imem_read, ?_⟩
  · rw [load_mem_read hoff, Memory.read_load_of_mem hn h]
  · rw [load_mem_read hoff, Memory.read_load_of_notMem ha]
  · rw [load_eq]

end Sys2Proof
end

section
/-! SUPPORT. The step: what it runs, when it stops, what it raises and why, and what every step
keeps. -/

namespace Sys2Proof

open Machine

/-! ## What a step runs (20_memory.md R41, 60_exceptions.md R181, R182) -/

section
variable {s : State} (hmark : s.faultMark = none)
include hmark

theorem step_eq_exec (hvalid : s.fetchValid = true) :
    step s = exec (decode s.params s.fetchedWord) s := by
  simp [step, hmark, State.fetch, hvalid]

theorem step_eq_raise (hvalid : s.fetchValid = false) :
    step s = .next (s.raise (.memoryFault s.pc s.pc)) :=
  step_eq_next.mpr ⟨hmark, .inl ⟨hvalid, rfl⟩⟩

end

section
variable {s : State}

theorem fetchedWord_unified (h : s.params.memOrg = .unified) :
    s.fetchedWord = s.mem.read s.pc.toNat := by rw [State.fetchedWord, h]

theorem fetchedWord_harvard (h : s.params.memOrg = .harvard) :
    s.fetchedWord = s.imem.read s.pc.toNat := by rw [State.fetchedWord, h]

theorem fetchValid_unified (h : s.params.memOrg = .unified) :
    s.fetchValid = memValid s.params s.pc := by rw [State.fetchValid, h]

theorem fetchValid_harvard (h : s.params.memOrg = .harvard) : s.fetchValid = true := by
  rw [State.fetchValid, h]

end

/-- Settles O19: an unmarked step at a backed fetch address, under each organisation. -/
theorem stepRunsTheDecodedInstruction : Obligations.StepRunsTheDecodedInstruction := by
  refine fun s hmark => ⟨fun horg hvalid => ?_, fun horg => ?_⟩
  · rw [step_eq_exec hmark ((fetchValid_unified horg).trans hvalid), fetchedWord_unified horg]
  · rw [step_eq_exec hmark (fetchValid_harvard horg), fetchedWord_harvard horg]

/-- Settles O20: an unmarked step at an unbacked fetch address. -/
theorem fetchOfUnbackedAddressFaults : Obligations.FetchOfUnbackedAddressFaults :=
  fun _ hmark horg hvalid => step_eq_raise hmark ((fetchValid_unified horg).trans hvalid)

theorem step_of_marked {s : State} {f : Fault} (h : s.faultMark = some f) : step s = .fault f := by
  simp [step, h]

/-- An unmarked machine takes a step. -/
theorem exists_step_eq_next {s : State} (hmark : s.faultMark = none) : ∃ t, step s = .next t := by
  cases hvalid : s.fetchValid with
  | false => exact ⟨_, step_eq_raise hmark hvalid⟩
  | true =>
    obtain ⟨t, ht, -⟩ := exec_effect (decode s.params s.fetchedWord) s
    exact ⟨t, (step_eq_exec hmark hvalid).trans ht⟩

/-- Settles O21: a marked machine answers its mark, an unmarked one a next state. -/
theorem stepStopsExactlyWhenMarked : Obligations.StepStopsExactlyWhenMarked := by
  intro s
  cases hmark : s.faultMark with
  | some f => simp [step_of_marked hmark]
  | none =>
    obtain ⟨t, ht⟩ := exists_step_eq_next hmark
    simp [ht]

/-- Every step is an `Effect` of the state it starts from. -/
theorem step_effect {s t : State} (h : step s = .next t) : s.faultMark = none ∧ Effect s t := by
  obtain ⟨hmark, ⟨-, rfl⟩ | ⟨-, hexec⟩⟩ := step_eq_next.mp h
  · exact ⟨hmark, .raised _⟩
  · exact ⟨hmark, exec_eq_next hexec⟩

/-! ## What every step keeps -/

/-- Settles O22: of the three effects, only a raise leaves a mark on an unmarked state. -/
theorem faultsArePrecise : Obligations.FaultsArePrecise := by
  intro s t h ht
  obtain ⟨hmark, heff⟩ := step_effect h
  cases heff with
  | done => exact absurd hmark ht
  | stored => exact absurd hmark ht
  | raised f => rfl

/-- Settles O25: a store goes to an address outside TEXT, so it writes no word of the program. -/
theorem stepKeepsTheProgram : Obligations.StepKeepsTheProgram := by
  intro s t w hw h
  cases (step_effect h).2 with
  | done => exact ⟨rfl, rfl, rfl, hw⟩
  | raised f => exact ⟨rfl, rfl, rfl, hw⟩
  | stored addr v pc sp hvalid htext =>
    refine ⟨rfl, rfl, rfl, fun a (ha : s.isText a = true) => ?_⟩
    have hne : a ≠ addr := by
      rintro rfl
      simp [ha] at htext
    exact ((storedWord_write s.mem addr v a).trans (if_neg hne)).trans (hw a ha)

/-- Settles O26: a store is the one change of Mem, and a write keeps the canonical form. -/
theorem stepKeepsCanonicalForm : Obligations.StepKeepsCanonicalForm := by
  intro s t hwf h
  cases (step_effect h).2 with
  | done => exact hwf
  | raised f => exact hwf
  | stored addr v pc sp hvalid htext =>
    simp only [State.wf, Bool.and_eq_true] at hwf ⊢
    obtain ⟨⟨hmem, himem⟩, htextWf⟩ := hwf
    exact ⟨⟨Memory.wf_write hmem addr.isLt v, himem⟩, htextWf⟩

/-! ## What raises which fault (60_exceptions.md R181, R182) -/

/-- The faults that executing `i`, read from the word `w`, can raise: an UNDEFINED row, the one
access at an unbacked address, the store at a backed address of TEXT. -/
def Raises (s : State) (w : Word) (i : Instr) (f : Fault) : Prop :=
  (i.isUndefined = true ∧ f = .undefinedInstruction s.pc w) ∨
    (∃ addr, (loadsFrom s i = some addr ∨ storesAt s i = some addr) ∧
      memValid s.params addr = false ∧ f = .memoryFault s.pc addr) ∨
    (∃ addr, storesAt s i = some addr ∧ memValid s.params addr = true ∧
      s.isText addr = true ∧ f = .textWriteRefused s.pc addr)

section
variable (s : State)

theorem exec_push (operand : StackOperand) : exec (.push operand) s =
    finishAccess s ((s.memWrite s.pushAddress (s.readStackOperand operand)).map
      (fun t => t.setSp (s.sp + 1))) := rfl

theorem exec_pop (operand : StackOperand) : exec (.pop operand) s =
    finishAccess s ((s.memRead s.popAddress).map
      (fun v => (s.writeStackOperand v operand).setSp (s.sp - 1))) := rfl

/-- SDW in the shape of PUSH: a store with no further effect. -/
theorem exec_sdw_map (rd ra ro : Reg) : exec (.sdw rd ra ro) s =
    finishAccess s ((s.memWrite (s.effectiveAddress ra ro) (s.reg rd)).map id) := by
  rw [exec_sdw]
  cases s.memWrite (s.effectiveAddress ra ro) (s.reg rd) <;> rfl

theorem writeStackOperand_faultMark (v : Word) (operand : StackOperand) :
    (s.writeStackOperand v operand).faultMark = s.faultMark := by
  cases operand <;> rfl

end

section
variable {s : State} (hmark : s.faultMark = none) (f : Fault)
include hmark

/-- An instruction with one load raises for an unbacked address, provided that what it does after
the load leaves the mark alone. -/
theorem finishAccess_memRead_raises {addr : Word} {after : Word → State}
    (hafter : ∀ v, (after v).faultMark = s.faultMark) :
    (∃ t, finishAccess s ((s.memRead addr).map after) = .next t ∧ t.faultMark = some f) ↔
      memValid s.params addr = false ∧ f = .memoryFault s.pc addr := by
  simp only [finishAccess_memRead]
  constructor
  · rintro ⟨t, ⟨-, rfl⟩ | ⟨hvalid, rfl⟩, hf⟩
    · simp [hafter, hmark] at hf
    · exact ⟨hvalid, (Option.some_inj.mp hf).symm⟩
  · rintro ⟨hvalid, rfl⟩
    exact ⟨_, .inr ⟨hvalid, rfl⟩, rfl⟩

/-- An instruction with one store raises for an unbacked address, or for a backed one of TEXT. -/
theorem finishAccess_memWrite_map_raises {addr v : Word} {after : State → State}
    (hafter : ∀ u, (after u).faultMark = u.faultMark) :
    (∃ t, finishAccess s ((s.memWrite addr v).map after) = .next t ∧ t.faultMark = some f) ↔
      (memValid s.params addr = false ∧ f = .memoryFault s.pc addr) ∨
        (memValid s.params addr = true ∧ s.isText addr = true ∧
          f = .textWriteRefused s.pc addr) := by
  simp only [finishAccess_memWrite_map]
  constructor
  · rintro ⟨t, ⟨-, -, rfl⟩ | ⟨hvalid, rfl⟩ | ⟨hvalid, htext, rfl⟩, hf⟩
    · simp [hafter, hmark] at hf
    · exact .inl ⟨hvalid, (Option.some_inj.mp hf).symm⟩
    · exact .inr ⟨hvalid, htext, (Option.some_inj.mp hf).symm⟩
  · rintro (⟨hvalid, rfl⟩ | ⟨hvalid, htext, rfl⟩)
    · exact ⟨_, .inr (.inl ⟨hvalid, rfl⟩), rfl⟩
    · exact ⟨_, .inr (.inr ⟨hvalid, htext, rfl⟩), rfl⟩

/-- What an instruction of the word `w` raises, both ways. -/
theorem exec_raises_iff {p : Params} {w : Word} {i : Instr} (hrow : Reads p w i) :
    (∃ t, exec i s = .next t ∧ t.faultMark = some f) ↔ Raises s w i f := by
  have hnext {i : Instr} {t : State} (h : exec i s = .next t) :
      (∃ t, exec i s = .next t ∧ t.faultMark = some f) ↔ t.faultMark = some f := by
    simp [h]
  unfold Raises
  cases hrow
  case ldw =>
    rw [exec_ldw, finishAccess_memRead_raises hmark]
    · simp [Instr.isUndefined, loadsFrom, storesAt]
    · exact fun _ => rfl
  case pop =>
    rw [exec_pop, finishAccess_memRead_raises hmark]
    · simp [Instr.isUndefined, loadsFrom, storesAt]
    · exact fun v => writeStackOperand_faultMark s v _
  case sdw =>
    rw [exec_sdw_map, finishAccess_memWrite_map_raises hmark]
    · simp [Instr.isUndefined, loadsFrom, storesAt]
    · exact fun _ => rfl
  case push =>
    rw [exec_push, finishAccess_memWrite_map_raises hmark]
    · simp [Instr.isUndefined, loadsFrom, storesAt]
    · exact fun _ => rfl
  case undefined00000 | undefined01110 | undefined01111 | undefined10110 | undefined10111 |
      undefined11110 =>
    rw [hnext rfl]
    simp [Instr.isUndefined, loadsFrom, storesAt, eq_comm (a := f)]
  all_goals
    rw [hnext rfl]
    simp [Instr.isUndefined, loadsFrom, storesAt, hmark]

end

/-- Settles O23: the fetch address comes first, then the instruction of the fetched word. -/
theorem faultsHaveExactlyTheirCauses : Obligations.FaultsHaveExactlyTheirCauses := by
  rintro s i f hmark rfl
  cases hvalid : s.fetchValid with
  | false => simp [step_eq_raise hmark hvalid, eq_comm (a := f)]
  | true =>
    rw [step_eq_exec hmark hvalid, exec_raises_iff hmark f (reads_decode s.params s.fetchedWord)]
    simp [Raises]

/-- A fetch address is unbacked only if MEM_VALID is false of it. -/
theorem memValid_of_fetchValid_eq_false {s : State} (h : s.fetchValid = false) :
    memValid s.params s.pc = false := by
  cases horg : s.params.memOrg with
  | unified => exact fetchValid_unified horg ▸ h
  | harvard => simp [fetchValid_harvard horg] at h

/-- Settles O24: every cause of a memory fault has an unbacked address. -/
theorem noMemoryFaultWhenAllIsBacked : Obligations.NoMemoryFaultWhenAllIsBacked := by
  intro s t a addr hall h hf
  have hcause := (faultsHaveExactlyTheirCauses s _ _ (step_effect h).1 rfl).mp ⟨t, h, hf⟩
  obtain ⟨hfetch, -⟩ | ⟨-, ⟨-, hf⟩ | ⟨b, -, hb, -⟩ | ⟨b, -, -, -, hf⟩⟩ := hcause
  · simpa [hall] using memValid_of_fetchValid_eq_false hfetch
  · cases hf
  · simp [hall] at hb
  · cases hf

/-! ## Changes of the state that an access does not see -/

section
variable {s t : State} {change : State → State}
  (hraise : ∀ u f, (change u).raise f = change (u.raise f))
  (hadvance : ∀ u, (change u).advance = change u.advance)
include hraise hadvance

/-- A change that commutes with the two ends of an access commutes with the access. -/
theorem finishAccess_commutes {x : Except Fault State} (h : finishAccess s x = .next t) :
    finishAccess (change s) (x.map change) = .next (change t) := by
  obtain ⟨u, rfl, rfl⟩ | ⟨f, rfl, rfl⟩ := finishAccess_eq_next.mp h
  · exact congrArg _ (hadvance u)
  · exact congrArg _ (hraise s f)

theorem finishAccess_memRead_commutes {addr : Word} {after after' : Word → State}
    (h : finishAccess s ((s.memRead addr).map after) = .next t)
    (hread : (change s).memRead addr = s.memRead addr)
    (hafter : ∀ v, after' v = change (after v)) :
    finishAccess (change s) (((change s).memRead addr).map after') = .next (change t) := by
  have hmap : (s.memRead addr).map after' = ((s.memRead addr).map after).map change := by
    cases s.memRead addr with
    | ok v => exact congrArg _ (hafter v)
    | error f => rfl
  rw [hread, hmap]
  exact finishAccess_commutes hraise hadvance h

theorem finishAccess_memWrite_commutes {addr v : Word} {after after' : State → State}
    (h : finishAccess s ((s.memWrite addr v).map after) = .next t)
    (hwrite : (change s).memWrite addr v = (s.memWrite addr v).map change)
    (hafter : ∀ u, after' (change u) = change (after u)) :
    finishAccess (change s) (((change s).memWrite addr v).map after') = .next (change t) := by
  have hmap : ((s.memWrite addr v).map change).map after' =
      ((s.memWrite addr v).map after).map change := by
    cases s.memWrite addr v with
    | ok u => exact congrArg _ (hafter u)
    | error f => rfl
  rw [hwrite, hmap]
  exact finishAccess_commutes hraise hadvance h

end

/-! ## The two memory organisations (20_memory.md R53) -/

theorem memWrite_withOrg (s : State) (org : MemOrg) (addr v : Word) :
    (s.withOrg org).memWrite addr v = (s.memWrite addr v).map (·.withOrg org) := by
  have hvalid : memValid (s.withOrg org).params addr = memValid s.params addr := rfl
  rw [State.memWrite, State.memWrite, hvalid]
  split
  · have htext : (s.withOrg org).isText addr = s.isText addr := rfl
    rw [htext]
    split <;> rfl
  · rfl

/-- No meaning looks at the memory organisation. -/
theorem exec_withOrg {i : Instr} {s t : State} (org : MemOrg) (h : exec i s = .next t) :
    exec i (s.withOrg org) = .next (t.withOrg org) := by
  have hraise (u : State) (f : Fault) : (u.withOrg org).raise f = (u.raise f).withOrg org := rfl
  have hadvance (u : State) : (u.withOrg org).advance = u.advance.withOrg org := rfl
  cases i
  case ldw rd ra ro =>
    exact finishAccess_memRead_commutes hraise hadvance h rfl fun _ => rfl
  case pop operand =>
    refine finishAccess_memRead_commutes hraise hadvance h rfl fun _ => ?_
    cases operand <;> rfl
  case sdw rd ra ro =>
    rw [exec_sdw_map] at h ⊢
    exact finishAccess_memWrite_commutes hraise hadvance h (memWrite_withOrg s org _ _) fun _ => rfl
  case push operand =>
    have hvalue : (s.withOrg org).readStackOperand operand = s.readStackOperand operand := by
      cases operand <;> rfl
    rw [exec_push, hvalue]
    exact finishAccess_memWrite_commutes hraise hadvance h (memWrite_withOrg s org _ _) fun _ => rfl
  all_goals
    cases h
    rfl

theorem step_withOrg {s u : State} (hmark : s.faultMark = none)
    (hvalid : memValid s.params s.pc = true)
    (hword : s.mem.read s.pc.toNat = s.imem.read s.pc.toNat)
    (hu : exec (decode s.params (s.mem.read s.pc.toNat)) s = .next u) (org : MemOrg) :
    step (s.withOrg org) = .next (u.withOrg org) := by
  refine Eq.trans ?_ (exec_withOrg org hu)
  cases org with
  | unified => exact (stepRunsTheDecodedInstruction (s.withOrg .unified) hmark).1 rfl hvalid
  | harvard =>
    rw [hword]
    exact (stepRunsTheDecodedInstruction (s.withOrg .harvard) hmark).2 rfl

/-- The organisation is one field: two states that agree under one agree under the other. -/
theorem withOrg_inj {u t : State} {a : MemOrg} (b : MemOrg) (h : u.withOrg a = t.withOrg a) :
    u.withOrg b = t.withOrg b := congrArg (·.withOrg b) h

/-- Settles O27: both organisations run the same instruction, to the same next state but for the
organisation. -/
theorem organisationsTakeTheSameStep : Obligations.OrganisationsTakeTheSameStep := by
  intro s t hvalid hword
  cases hmark : s.faultMark with
  | some f =>
    have hmarked (org : MemOrg) : step (s.withOrg org) = .fault f := step_of_marked hmark
    simp [hmarked]
  | none =>
    obtain ⟨u, hu, -⟩ := exec_effect (decode s.params (s.mem.read s.pc.toNat)) s
    simp only [step_withOrg hmark hvalid hword hu, Host.Outcome.next.injEq]
    exact ⟨withOrg_inj _, withOrg_inj _⟩

/-! ## The end of a run (60_exceptions.md R193) -/

theorem exec_br (imm8 : BitVec 8) (s : State) :
    exec (.br imm8) s = .next (s.setPc (s.branchTarget imm8)) := rfl

theorem atEnd_iff {s : State} : s.atEnd = true ↔ s.faultMark = none ∧ s.fetchValid = true ∧
    ∃ imm8, decode s.params s.fetchedWord = .br imm8 ∧ s.branchTarget imm8 = s.pc := by
  unfold State.atEnd
  split
  · next imm8 hdecode => simp [hdecode, and_assoc]
  · next hdecode => simpa using fun _ _ imm8 h => absurd h (hdecode imm8)

/-- At the default parameters 0xFFF8 is a branch to itself. -/
theorem decode_default_endMarker : decode Params.default 0xFFF8#16 = .br 0xFF#8 := by decide

theorem branchTarget_default_endMarker {s : State} (h : s.params = Params.default) :
    s.branchTarget 0xFF#8 = s.pc := by
  have hback : displacement 0xFF#8 = -1#16 := by decide
  have hbase : branchBaseAddr Params.default s.pc = s.pc + 1#16 := rfl
  rw [State.branchTarget, h, hback, hbase, ← BitVec.sub_eq_add_neg, BitVec.add_sub_cancel]

/-- Settles O28: at the end the instruction is a branch whose target is PC; the marker is one. -/
theorem endOfRunIsStable : Obligations.EndOfRunIsStable := by
  refine ⟨fun s h => ?_, fun s hparams hmark hword => ?_⟩
  · obtain ⟨hmark, hvalid, imm8, hdecode, htarget⟩ := atEnd_iff.mp h
    rw [step_eq_exec hmark hvalid, hdecode, exec_br, htarget]
    rfl
  · have horg : s.params.memOrg = .unified := hparams ▸ rfl
    have hvalid : s.fetchValid = true := by
      rw [fetchValid_unified horg, hparams]
      rfl
    refine atEnd_iff.mpr ⟨hmark, hvalid, 0xFF#8, ?_, branchTarget_default_endMarker hparams⟩
    rw [hparams, hword, decode_default_endMarker]

end Sys2Proof
end

section
/-! SUPPORT. What each instruction leaves unchanged, against the spec's tables of what it writes;
and that a register outside both its tables has no influence on it. -/

namespace Sys2Proof

open Machine

/-! ## The frame of an instruction (10_state.md R21 to R26, 20_memory.md R43) -/

/-- `t` keeps of `s` what the tables say that `i` does not write. -/
structure Frame (i : Instr) (s t : State) : Prop where
  reg : ∀ r, i.regWritten ≠ some r → t.reg r = s.reg r
  flags : i.flagsWritten = .none → t.flags = s.flags
  flagsButZ : i.flagsWritten = .zOnly →
    t.flags.c = s.flags.c ∧ t.flags.v = s.flags.v ∧ t.flags.n = s.flags.n
  lr : i.writesLr = false → t.lr = s.lr
  sp : i.writesSp = false → t.sp = s.sp
  mem : ∀ b : Word, storesAt s i ≠ some b → t.mem.read b.toNat = s.mem.read b.toNat
  /-- Only a raise or a control transfer leaves PC anywhere but at `nxt`. -/
  pc : t.faultMark = none → i.isControlTransfer = false → t.pc = s.pc + 1

theorem Frame.raise (i : Instr) (s : State) (f : Fault) : Frame i s (s.raise f) where
  reg _ _ := rfl
  flags _ := rfl
  flagsButZ _ := ⟨rfl, rfl, rfl⟩
  lr _ := rfl
  sp _ := rfl
  mem _ _ := rfl
  pc h := nomatch h

section
variable {i : Instr} {s t : State}

/-- A register write that the table lists changes no other register. -/
theorem setReg_reg_of_regWritten {rd r : Reg} {v : Word} (hrd : i.regWritten = some rd)
    (hr : i.regWritten ≠ some r) : (s.setReg rd v).reg r = s.reg r := by
  rw [State.setReg_reg, if_neg]
  rintro rfl
  exact hr hrd

/-- An instruction that ends in registers, flags and PC at `nxt` keeps the frame if the registers
and the flags do. -/
theorem Frame.of_result {regs : Vector Word 8} {flags : Flags}
    (hreg : ∀ r : Reg, i.regWritten ≠ some r → regs[r.val] = s.reg r)
    (hflags : i.flagsWritten = .none → flags = s.flags)
    (hz : i.flagsWritten = .zOnly →
      flags.c = s.flags.c ∧ flags.v = s.flags.v ∧ flags.n = s.flags.n) :
    Frame i s { s with regs := regs, flags := flags, pc := s.pc + 1 } where
  reg := hreg
  flags := hflags
  flagsButZ := hz
  lr _ := rfl
  sp _ := rfl
  mem _ _ := rfl
  pc _ _ := rfl

theorem Frame.of_finishArith {rd : Reg} {out : AluOutput} (h : finishArith s rd out = .next t)
    (hrd : i.regWritten = some rd) (hflags : i.flagsWritten = .all) : Frame i s t := by
  cases h
  exact .of_result (fun _ => setReg_reg_of_regWritten hrd) (by simp [hflags]) (by simp [hflags])

theorem Frame.of_finishCompare {out : AluOutput} (h : finishCompare s out = .next t)
    (hflags : i.flagsWritten = .all) : Frame i s t := by
  cases h
  exact .of_result (fun _ _ => rfl) (by simp [hflags]) (by simp [hflags])

theorem Frame.of_finishLogic {rd : Reg} {r : Word} (h : finishLogic s rd r = .next t)
    (hrd : i.regWritten = some rd) (hflags : i.flagsWritten = .zOnly) : Frame i s t := by
  cases h
  exact .of_result (fun _ => setReg_reg_of_regWritten hrd) (by simp [hflags])
    (fun _ => ⟨rfl, rfl, rfl⟩)

theorem Frame.of_finishMove {rd : Reg} {r : Word} (h : finishMove s rd r = .next t)
    (hrd : i.regWritten = some rd) : Frame i s t := by
  cases h
  exact .of_result (fun _ => setReg_reg_of_regWritten hrd) (fun _ => rfl)
    (fun _ => ⟨rfl, rfl, rfl⟩)

/-- A control transfer writes PC, and LR only if the table says so. -/
theorem Frame.of_transfer {pc lr : Word} (h : (.next ((s.setLr lr).setPc pc) : Result) = .next t)
    (hpc : i.isControlTransfer = true) (hlr : i.writesLr = true ∨ lr = s.lr) : Frame i s t := by
  cases h
  exact {
    reg := fun _ _ => rfl
    flags := fun _ => rfl
    flagsButZ := fun _ => ⟨rfl, rfl, rfl⟩
    lr := fun hno => hlr.resolve_left (by simp [hno])
    sp := fun _ => rfl, mem := fun _ _ => rfl
    pc := by simp [hpc] }

/-- POP writes its operand, and SP. -/
theorem Frame.pop (s : State) (operand : StackOperand) (v : Word) :
    Frame (.pop operand) s ((s.writeStackOperand v operand).setSp (s.sp - 1)).advance where
  reg r hr := by
    cases operand with
    | reg ra => exact setReg_reg_of_regWritten (i := .pop (.reg ra)) rfl hr
    | link => rfl
  flags _ := by cases operand <;> rfl
  flagsButZ h := nomatch h
  lr hno := by
    cases operand with
    | reg ra => rfl
    | link => cases hno
  sp hno := nomatch hno
  mem _ _ := by cases operand <;> rfl
  pc _ _ := by cases operand <;> rfl

/-- A store at the address the table names, and a write of SP if the table says so. -/
theorem Frame.of_store {addr v sp : Word} (hst : storesAt s i = some addr)
    (hsp : i.writesSp = true ∨ sp = s.sp) :
    Frame i s { s with mem := s.mem.write addr.toNat v, sp := sp, pc := s.pc + 1 } where
  reg _ _ := rfl
  flags _ := rfl
  flagsButZ _ := ⟨rfl, rfl, rfl⟩
  lr _ := rfl
  sp hno := hsp.resolve_left (by simp [hno])
  mem b hb := (storedWord_write s.mem addr v b).trans (if_neg (by rintro rfl; exact hb hst))
  pc _ _ := rfl

theorem exec_frame (h : exec i s = .next t) : Frame i s t := by
  cases i
  case ldw rd ra ro =>
    obtain ⟨-, rfl⟩ | ⟨-, rfl⟩ := finishAccess_memRead.mp h
    · exact .of_finishMove rfl rfl
    · exact .raise _ s _
  case pop operand => 
    obtain ⟨-, rfl⟩ | ⟨-, rfl⟩ := finishAccess_memRead.mp h
    · exact .pop s operand _
    · exact .raise _ s _
  case sdw rd ra ro =>
    obtain ⟨-, -, rfl⟩ | ⟨-, rfl⟩ | ⟨-, -, rfl⟩ := finishAccess_memWrite.mp h
    · exact .of_store rfl (.inr rfl)
    · exact .raise _ s _
    · exact .raise _ s _
  case push operand =>
    obtain ⟨-, -, rfl⟩ | ⟨-, rfl⟩ | ⟨-, -, rfl⟩ := finishAccess_memWrite_map.mp h
    · exact .of_store rfl (.inl rfl)
    · exact .raise _ s _
    · exact .raise _ s _
  case undefined00000 | undefined01110 | undefined01111 | undefined10110 | undefined10111 |
      undefined11110 =>
    cases h
    exact .raise _ s _
  case br | bne | be | blt | bge | ret | abr => exact .of_transfer h rfl (.inr rfl)
  case bwl => exact .of_transfer h rfl (.inl rfl)
  case cmp => exact .of_finishCompare h rfl
  case and | or | xor | not | nand | nor => exact .of_finishLogic h rfl rfl
  case lsl | lsr | asr | lui | lli => exact .of_finishMove h rfl
  all_goals exact .of_finishArith h rfl rfl

end
/-- Settles O29: the registers' part of the frame. -/
theorem generalRegisterFrame : Obligations.GeneralRegisterFrame :=
  fun _ _ _ r h hr => (exec_frame h).reg r hr

/-- Settles O31: the flags' part of the frame. -/
theorem flagFrame : Obligations.FlagFrame :=
  fun _ _ _ h => ⟨(exec_frame h).flags, (exec_frame h).flagsButZ⟩

/-- Settles O32: LR and SP from the frame, the other three from what any instruction can do. -/
theorem specialRegisterFrame : Obligations.SpecialRegisterFrame := by
  intro i s t h
  refine ⟨(exec_frame h).lr, (exec_frame h).sp, ?_⟩
  cases exec_eq_next h <;> exact ⟨rfl, rfl, rfl⟩

/-- Settles O33: the memory's part of the frame. -/
theorem memoryFrame : Obligations.MemoryFrame :=
  fun _ _ _ b h hb => (exec_frame h).mem b hb

/-- Settles O34: PC's part of the frame, modulo 65536. -/
theorem sequentialPc : Obligations.SequentialPc := by
  intro i s t _ h hmark htransfer
  rw [(exec_frame h).pc hmark htransfer, BitVec.toNat_add]
  rfl

/-! ## Registers without influence (10_state.md R21) -/

theorem setReg_comm (s : State) {i j : Reg} (h : i ≠ j) (v w : Word) :
    (s.setReg i v).setReg j w = (s.setReg j w).setReg i v := by
  have hne : i.val ≠ j.val := fun heq => h (Fin.ext heq)
  simp only [State.setReg]
  rw [Vector.set_comm _ _ hne]

section
variable {s t : State} {r rd : Reg} {v : Word}

theorem finishArith_setReg {out : AluOutput} (h : finishArith s rd out = .next t) (hr : rd ≠ r) :
    finishArith (s.setReg r v) rd out = .next (t.setReg r v) := by
  cases h
  rw [finishArith, setReg_comm s hr.symm]
  rfl

theorem finishLogic_setReg {x : Word} (h : finishLogic s rd x = .next t) (hr : rd ≠ r) :
    finishLogic (s.setReg r v) rd x = .next (t.setReg r v) := by
  cases h
  rw [finishLogic, setReg_comm s hr.symm]
  rfl

theorem finishMove_setReg {x : Word} (h : finishMove s rd x = .next t) (hr : rd ≠ r) :
    finishMove (s.setReg r v) rd x = .next (t.setReg r v) := by
  cases h
  rw [finishMove, setReg_comm s hr.symm]
  rfl

theorem finishCompare_setReg {out : AluOutput} (h : finishCompare s out = .next t) :
    finishCompare (s.setReg r v) out = .next (t.setReg r v) := by
  cases h
  rfl

theorem memWrite_setReg (addr x : Word) :
    (s.setReg r v).memWrite addr x = (s.memWrite addr x).map (·.setReg r v) := by
  rw [State.memWrite, State.memWrite, State.setReg_params]
  split
  · have htext : (s.setReg r v).isText addr = s.isText addr := rfl
    rw [htext]
    split <;> rfl
  · rfl

end

/-- Settles O30: the operands that the meaning reads are the same, and the registers it writes are
others, so each end of an instruction commutes with the write. -/
theorem unreadRegistersHaveNoInfluence : Obligations.UnreadRegistersHaveNoInfluence := by
  intro i s t r v hread hwrite h
  have hreg (a : Reg) (ha : a ∈ i.regsRead) : (s.setReg r v).reg a = s.reg a := by
    rw [State.setReg_reg, if_neg]
    rintro rfl
    exact hread ha
  have hrd (rd : Reg) (h : i.regWritten = some rd) : rd ≠ r := by
    rintro rfl
    exact hwrite h
  have hraise (u : State) (f : Fault) : (u.setReg r v).raise f = (u.raise f).setReg r v := rfl
  have hadvance (u : State) : (u.setReg r v).advance = u.advance.setReg r v := rfl
  cases i
  case add | adc | sub | suc | addi | adci | subi | suci | addib | subib | neg =>
    refine finishArith_setReg ?_ (hrd _ rfl)
    simp only [Instr.regsRead, List.forall_mem_cons] at hreg
    simp only [hreg, State.setReg_flags, State.setReg_params]
    exact h
  case and | or | xor | not | nand | nor =>
    refine finishLogic_setReg ?_ (hrd _ rfl)
    simp only [Instr.regsRead, List.forall_mem_cons] at hreg
    simp only [hreg]
    exact h
  case lsl | lsr | asr | lui | lli =>
    refine finishMove_setReg ?_ (hrd _ rfl)
    simp only [Instr.regsRead, List.forall_mem_cons] at hreg
    simp only [hreg]
    exact h
  case cmp =>
    refine finishCompare_setReg ?_
    simp only [Instr.regsRead, List.forall_mem_cons] at hreg
    simp only [hreg, State.setReg_params]
    exact h
  case abr ra =>
    simp only [Instr.regsRead, List.forall_mem_cons] at hreg
    obtain ⟨hra, -⟩ := hreg
    rw [exec_abr] at h ⊢
    cases h
    rw [hra]
    rfl
  case ldw rd ra ro =>
    simp only [Instr.regsRead, List.forall_mem_cons] at hreg
    obtain ⟨hra, hro, -⟩ := hreg
    rw [exec_ldw, State.effectiveAddress, hra, hro]
    exact finishAccess_memRead_commutes hraise hadvance h rfl
      fun x => setReg_comm s (hrd rd rfl).symm v x
  case pop operand =>
    refine finishAccess_memRead_commutes hraise hadvance h rfl fun x => ?_
    cases operand with
    | reg ra => exact congrArg (·.setSp (s.sp - 1)) (setReg_comm s (hrd ra rfl).symm v x)
    | link => rfl
  case sdw rd ra ro =>
    rw [exec_sdw_map] at h ⊢
    simp only [Instr.regsRead, List.forall_mem_cons] at hreg
    obtain ⟨hra, hro, hstored, -⟩ := hreg
    rw [State.effectiveAddress, hra, hro, hstored]
    exact finishAccess_memWrite_commutes hraise hadvance h (memWrite_setReg _ _) fun _ => rfl
  case push operand =>
    have hvalue : (s.setReg r v).readStackOperand operand = s.readStackOperand operand := by
      cases operand with
      | reg ra => exact hreg ra (by simp [Instr.regsRead])
      | link => rfl
    rw [exec_push, hvalue]
    exact finishAccess_memWrite_commutes hraise hadvance h (memWrite_setReg _ _) fun _ => rfl
  all_goals
    cases h
    rfl

end Sys2Proof
end

section
/-! SUPPORT. What the arithmetic instructions, the shifts and the byte loads leave, in exact
integers. -/

namespace Sys2Proof

open Machine

/-! ## Sums and differences (40_data_manipulation.md R100 to R111) -/

theorem finishArith_eq_afterResult (s : State) (rd : Reg) (out : AluOutput) :
    finishArith s rd out = .next (s.afterResult rd out.result out.flags) := rfl

theorem finishArith_addWithCarry (s : State) (rd : Reg) (x y : Word) (cin : Bool) :
    finishArith s rd (addWithCarry x y cin) =
      .next (s.afterResult rd (BitVec.ofNat 16 (exactSum x y cin)) (sumFlags x y cin)) := by
  rw [finishArith_eq_afterResult, addWithCarry_result, addWithCarry_flags]

theorem finishArith_subWithCarry (s : State) (rd : Reg) (x y : Word) (cin : Bool) :
    finishArith s rd (subWithCarry s.params x y cin) =
      .next (s.afterResult rd (BitVec.ofInt 16 (exactDifference x y cin))
        (differenceFlags s.params.subCarry x y cin)) := by
  rw [finishArith_eq_afterResult, subWithCarry_result, subWithCarry_flags]

/-- Immediates are unsigned (30_encoding.md R71). -/
theorem immOperand5_eq (imm5 : BitVec 5) : immOperand5 imm5 = BitVec.ofNat 16 imm5.toNat :=
  (BitVec.ofNat_toNat 16 imm5).symm

theorem immOperand8_eq (imm8 : BitVec 8) : immOperand8 imm8 = BitVec.ofNat 16 imm8.toNat :=
  (BitVec.ofNat_toNat 16 imm8).symm

/-- Settles O35: each of the three ends with the adder's output, c in 0. -/
theorem additionResults : Obligations.AdditionResults := by
  intro s rd ra rb imm5 imm8
  simp only [forall_eq, ← immOperand5_eq, ← immOperand8_eq, ← finishArith_addWithCarry]
  exact ⟨rfl, rfl, rfl⟩

/-- Settles O36: each of the two ends with the adder's output, c in as before. -/
theorem additionWithCarryResults : Obligations.AdditionWithCarryResults := by
  intro s rd ra rb imm5
  simp only [forall_eq, ← immOperand5_eq, ← finishArith_addWithCarry]
  exact ⟨rfl, rfl⟩

/-- Settles O37: each of the three ends with the subtracter's output, nothing borrowed. -/
theorem subtractionResults : Obligations.SubtractionResults := by
  intro s rd ra rb imm5 imm8
  simp only [forall_eq, ← immOperand5_eq, ← immOperand8_eq, ← finishArith_subWithCarry]
  exact ⟨rfl, rfl, rfl⟩

/-- Settles O38: each of the two ends with the subtracter's output, c in as before. -/
theorem subtractionWithCarryResults : Obligations.SubtractionWithCarryResults := by
  intro s rd ra rb imm5
  simp only [forall_eq, ← immOperand5_eq, ← finishArith_subWithCarry]
  exact ⟨rfl, rfl⟩

/-- Settles O39: the difference of 0 and the register. -/
theorem negationResult : Obligations.NegationResult := by
  intro s rd
  have hneg : exactDifference 0x0000#16 (s.reg rd) true = -((s.reg rd).toNat : Int) := by
    simp [exactDifference]
  rw [← hneg, ← finishArith_subWithCarry]
  rfl

/-- Settles O40: the end of CMP with the subtracter's flags. -/
theorem comparisonResult : Obligations.ComparisonResult := by
  intro s ra rb
  rw [← subWithCarry_flags s.params, ← finishCompare_eq]
  rfl

/-! ## Registers after a result -/

section
variable (s : State) (rd : Reg) (v : Word) (f : Flags)

theorem afterResult_reg (r : Reg) :
    (s.afterResult rd v f).reg r = if rd = r then v else s.reg r :=
  State.setReg_reg s rd r v

theorem afterResult_flags : (s.afterResult rd v f).flags = f := rfl

theorem afterResult_params : (s.afterResult rd v f).params = s.params := rfl

end

/-! ## Two words as one number (40_data_manipulation.md R121) -/

theorem toNat_ofInt_word (k : Int) : ((BitVec.ofInt 16 k).toNat : Int) = k % 65536 := by
  rw [BitVec.toNat_ofInt]
  omega

theorem exactSum_two_words (xh xl yh yl : Word) :
    exactSum xh yh (sumFlags xl yl false).c % 65536 * 65536 + exactSum xl yl false % 65536 =
      (xh.toNat * 65536 + xl.toNat + (yh.toNat * 65536 + yl.toNat)) % 4294967296 := by
  have hxl := xl.isLt
  have hyl := yl.isLt
  by_cases hcarry : 65536 ≤ xl.toNat + yl.toNat <;> simp [exactSum, sumFlags, hcarry] <;> omega

theorem exactDifference_two_words (xh xl yh yl : Word) :
    exactDifference xh yh (differenceFlags .notBorrow xl yl true).c % 65536 * 65536 +
        exactDifference xl yl true % 65536 =
      ((xh.toNat * 65536 + xl.toNat : Int) - (yh.toNat * 65536 + yl.toNat : Int)) % 4294967296 := by
  have hxl := xl.isLt
  have hyl := yl.isLt
  by_cases hborrow : yl.toNat ≤ xl.toNat <;>
    simp [exactDifference, differenceFlags, hborrow] <;> omega

/-- Settles O41: the carry, or the borrow, out of the low words goes into the high ones. -/
theorem doubleWordArithmetic : Obligations.DoubleWordArithmetic := by
  intro s dl dh al ah bl bh hah hbh hdh
  refine ⟨⟨_, _, (additionResults s dl al bl 0 0).1 _ rfl,
    (additionWithCarryResults _ dh ah bh 0).1 _ rfl, ?_⟩, fun hc =>
    ⟨_, _, (subtractionResults s dl al bl 0 0).1 _ rfl,
    (subtractionWithCarryResults _ dh ah bh 0).1 _ rfl, ?_⟩⟩
  · simp only [afterResult_reg, if_neg hah, if_neg hbh, if_neg hdh.symm, if_true,
      afterResult_flags, BitVec.toNat_ofNat]
    exact exactSum_two_words _ _ _ _
  · simp only [afterResult_reg, if_neg hah, if_neg hbh, if_neg hdh.symm, if_true,
      afterResult_flags, afterResult_params, toNat_ofInt_word, hc]
    exact exactDifference_two_words _ _ _ _

/-! ## Operations that undo themselves (40_data_manipulation.md R122) -/

/-- Two writes of one register, the last of what it held, leave the registers as they were. -/
theorem afterResult_afterResult_regs {s : State} {rd : Reg} {v w : Word} {f g : Flags}
    (h : w = s.reg rd) : ((s.afterResult rd v f).afterResult rd w g).regs = s.regs := by
  subst h
  simp [State.afterResult, State.reg]

theorem exactDifference_self (x : Word) : exactDifference x x true = 0 := by
  simp [exactDifference]

theorem differenceFlags_self (sc : SubCarry) (x : Word) : differenceFlags sc x x true =
    { c := decide (sc = .notBorrow), v := false, n := false, z := true } := by
  cases sc <;> simp [differenceFlags, exactDifference_self, outsideSigned]

theorem ofInt_neg_toNat_twice (x : Word) :
    BitVec.ofInt 16 (-((BitVec.ofInt 16 (-(x.toNat : Int))).toNat : Int)) = x := by
  apply BitVec.eq_of_toNat_eq
  have hx := x.isLt
  rw [toNat_ofInt_word, BitVec.toNat_ofInt]
  omega

/-- Settles O42: the second NEG or NOT writes back what the register held; a difference or XOR of
equal operands is 0. -/
theorem selfInverseOperations : Obligations.SelfInverseOperations := by
  intro s rd ra
  have hnot (s : State) := exec_eq_afterResult_of_finishLogic (exec_not s rd rd) _ rfl
  have hxor := exec_eq_afterResult_of_finishLogic (exec_xor s rd ra ra) _ rfl
  refine ⟨⟨_, _, negationResult s rd, negationResult _ rd, afterResult_afterResult_regs ?_⟩,
    ⟨_, _, hnot s, hnot _, afterResult_afterResult_regs ?_⟩,
    ⟨_, (subtractionResults s rd ra ra 0 0).1 _ rfl, ?_⟩, ⟨_, hxor, ?_⟩⟩
  · rw [afterResult_reg, if_pos rfl, ofInt_neg_toNat_twice]
  · rw [afterResult_reg, if_pos rfl, BitVec.not_not]
  · simp [afterResult_reg, afterResult_flags, exactDifference_self, differenceFlags_self]
  · simp [afterResult_reg, afterResult_flags]

/-! ## Shifts and byte loads (40_data_manipulation.md R118 to R120, 41_byte_immediate.md R132,
R133) -/

theorem finishMove_eq_afterResult (s : State) (rd : Reg) (r : Word) :
    finishMove s rd r = .next (s.afterResult rd r s.flags) := rfl

theorem shiftLeft_eq_ofNat (x : Word) (k : Nat) : x <<< k = BitVec.ofNat 16 (x.toNat * 2 ^ k) := by
  apply BitVec.eq_of_toNat_eq
  rw [BitVec.toNat_shiftLeft, BitVec.toNat_ofNat, Nat.shiftLeft_eq]

theorem ushiftRight_eq_ofNat (x : Word) (k : Nat) :
    x >>> k = BitVec.ofNat 16 (x.toNat / 2 ^ k) := by
  rw [← Nat.shiftRight_eq_div_pow, ← BitVec.toNat_ushiftRight, BitVec.ofNat_toNat,
    BitVec.setWidth_eq]

theorem sshiftRight_eq_ofInt (x : Word) (k : Nat) :
    x.sshiftRight k = BitVec.ofInt 16 (x.toInt.fdiv (2 ^ k)) := by
  rw [Int.fdiv_eq_ediv_of_nonneg _ (by positivity), ← BitVec.ofInt_toInt (x := x.sshiftRight k),
    BitVec.toInt_sshiftRight, Int.shiftRight_eq_div_pow]
  norm_num

/-- Settles O44: each shift's result in the end that writes no flag. -/
theorem shiftResults : Obligations.ShiftResults := by
  intro s rd ra imm4
  rw [← shiftLeft_eq_ofNat, ← ushiftRight_eq_ofNat, ← sshiftRight_eq_ofInt]
  exact ⟨rfl, rfl, rfl⟩

/-- Settles O45: each byte load's result in the end that writes no flag. -/
theorem byteLoadResults : Obligations.ByteLoadResults := by
  intro s rd imm8
  rw [← upperByte_eq, ← lowerByte_eq]
  exact ⟨rfl, rfl⟩

/-- Two results in a row to one register, no flag written. -/
theorem afterResult_afterResult (s : State) (rd : Reg) (v w : Word) :
    (s.afterResult rd v s.flags).afterResult rd w s.flags =
      { s with regs := s.regs.set rd.val w, pc := s.pc + 2 } := by
  simp [State.afterResult, BitVec.add_assoc]

/-- Settles O46: the second instruction replaces the byte that the first one kept, and keeps the
byte that the first one wrote. -/
theorem constantLoadPair : Obligations.ConstantLoadPair := by
  intro s rd hi lo k hk
  have hhi := hi.isLt
  have hlo := lo.isLt
  have hconst (n : Nat) (hn : n % 65536 = hi.toNat * 256 + lo.toNat) : BitVec.ofNat 16 n = k :=
    BitVec.eq_of_toNat_eq (by rw [BitVec.toNat_ofNat, hn, hk])
  refine ⟨⟨_, (byteLoadResults s rd lo).2, ?_⟩, ⟨_, (byteLoadResults s rd hi).1, ?_⟩⟩
  · rw [(byteLoadResults _ rd hi).1, afterResult_flags, afterResult_afterResult, afterResult_reg,
      if_pos rfl, hconst (_ * 256 + _ % 256)]
    rw [BitVec.toNat_ofNat]
    omega
  · rw [(byteLoadResults _ rd lo).2, afterResult_flags, afterResult_afterResult, afterResult_reg,
      if_pos rfl, hconst (_ / 256 * 256 + _)]
    rw [BitVec.toNat_ofNat]
    omega

end Sys2Proof
end

section
/-! SUPPORT. Branches, the stack, and the UNDEFINED opcodes: the state each leaves. -/

namespace Sys2Proof

open Machine

/-! ## Branches (43_control_transfer.md R150 to R157) -/

theorem branchIf_eq_afterBranch (cond : Bool) (imm8 : BitVec 8) (s : State) :
    branchIf cond imm8 s = .next (s.afterBranch cond imm8) := by
  rw [branchIf, branchTarget_eq]
  rfl

/-- Settles O49: the five conditions, each in the shape the statement gives it. -/
theorem relativeBranchResults : Obligations.RelativeBranchResults := by
  intro s imm8
  have hz : (!s.flags.z) = decide (s.flags.z = false) := by cases s.flags.z <;> rfl
  have hz' : s.flags.z = decide (s.flags.z = true) := by cases s.flags.z <;> rfl
  have hlt : (s.flags.n != s.flags.v) =
      ((s.flags.n && !s.flags.v) || (!s.flags.n && s.flags.v)) := by
    cases s.flags.n <;> cases s.flags.v <;> rfl
  have hge : (s.flags.n == s.flags.v) =
      ((s.flags.n && s.flags.v) || (!s.flags.n && !s.flags.v)) := by
    cases s.flags.n <;> cases s.flags.v <;> rfl
  refine ⟨branchIf_eq_afterBranch true imm8 s, ?_, ?_, ?_, ?_⟩
  · exact hz ▸ branchIf_eq_afterBranch (!s.flags.z) imm8 s
  · exact (branchIf_eq_afterBranch s.flags.z imm8 s).trans (by rw [← hz'])
  · exact hlt ▸ branchIf_eq_afterBranch (s.flags.n != s.flags.v) imm8 s
  · exact hge ▸ branchIf_eq_afterBranch (s.flags.n == s.flags.v) imm8 s

/-! ## Branches after a comparison (95_test_vectors.md T11 law 3) -/

section
variable (sc : SubCarry) (x y : Word)

theorem differenceFlags_z : (differenceFlags sc x y true).z = decide (x = y) := by
  have hx := x.isLt
  have hy := y.isLt
  refine decide_eq_decide.mpr ?_
  simp only [exactDifference, BitVec.toNat_eq, Bool.not_true, Bool.toNat_false]
  omega

/-- n differs from v exactly if the first operand is signed less. -/
theorem differenceFlags_n_bne_v :
    ((differenceFlags sc x y true).n != (differenceFlags sc x y true).v) =
      decide (x.toInt < y.toInt) := by
  have hx := x.isLt
  have hy := y.isLt
  rw [Bool.eq_iff_iff]
  simp only [differenceFlags, exactDifference, outsideSigned, toInt_cond, Bool.not_true,
    Bool.toNat_false, ← Bool.decide_or, bne_iff_ne, ne_eq, decide_eq_decide, decide_eq_true_eq]
  split <;> split <;> omega

theorem differenceFlags_c :
    (differenceFlags .notBorrow x y true).c = true ↔ y.toNat ≤ x.toNat := by
  simp [differenceFlags, exactDifference]

end

/-- Settles O50: CMP leaves the flags of the difference, and each condition reads the order off
them. -/
theorem branchesAfterComparison : Obligations.BranchesAfterComparison := by
  intro s ra rb imm8
  refine ⟨_, comparisonResult s ra rb, ?_⟩
  generalize hflags : differenceFlags s.params.subCarry (s.reg ra) (s.reg rb) true = flags
  have hz : flags.z = decide (s.reg ra = s.reg rb) := by rw [← hflags, differenceFlags_z]
  have hlt : (flags.n != flags.v) = decide ((s.reg ra).toInt < (s.reg rb).toInt) := by
    rw [← hflags, differenceFlags_n_bne_v]
  have hge : (flags.n == flags.v) = decide ((s.reg rb).toInt ≤ (s.reg ra).toInt) := by
    rw [← Bool.not_not (flags.n == flags.v), ← bne, hlt, ← decide_not, decide_eq_decide, Int.not_lt]
  refine ⟨?_, ?_, ?_, ?_, fun hc => ?_⟩
  · exact hz ▸ branchIf_eq_afterBranch flags.z imm8 _
  · have hne : (!flags.z) = decide (s.reg ra ≠ s.reg rb) := by rw [hz, decide_not]
    exact hne ▸ branchIf_eq_afterBranch (!flags.z) imm8 _
  · exact hlt ▸ branchIf_eq_afterBranch (flags.n != flags.v) imm8 _
  · exact hge ▸ branchIf_eq_afterBranch (flags.n == flags.v) imm8 _
  · rw [← hflags, hc]
    exact differenceFlags_c _ _

/-! ## Linking (43_control_transfer.md R156, R157) -/

/-- Settles O51: the link is `nxt` as a number, the target the exact one. -/
theorem branchWithLinkResult : Obligations.BranchWithLinkResult := by
  intro s imm8
  have hlink : BitVec.ofNat 16 ((s.pc.toNat + 1) % 65536) = s.nxt :=
    BitVec.eq_of_toNat_eq (by simp [BitVec.toNat_add])
  rw [hlink, State.afterBranch, if_pos rfl, ← branchTarget_eq]
  rfl

/-- Settles O54: BWL's own LR, read back by RET. -/
theorem callThenReturn : Obligations.CallThenReturn := by
  intro s u imm8
  refine ⟨(s.setLr s.nxt).setPc (s.branchTarget imm8), rfl, fun h => ?_⟩
  rw [exec_ret, h]
  rfl

/-! ## The stack (44_stack_operations.md R170 to R173) -/

/-- Settles O55: the three ends of an instruction with one store, at the push address. -/
theorem pushResult : Obligations.PushResult := by
  intro s operand addr v haddr hv
  obtain rfl : addr = s.pushAddress := haddr
  obtain rfl : v = s.readStackOperand operand := by cases operand <;> exact hv
  simp only [exec_push, finishAccess_memWrite_map]
  refine ⟨fun hvalid htext => ?_, fun hvalid htext => ?_, fun hvalid => ?_⟩
  · exact ⟨_, .inl ⟨hvalid, htext, rfl⟩, storedWord_write _ _ _⟩
  · exact .inr (.inr ⟨hvalid, htext, rfl⟩)
  · exact .inr (.inl ⟨hvalid, rfl⟩)

/-- Settles O56: the two ends of an instruction with one load, at the pop address. -/
theorem popResult : Obligations.PopResult := by
  intro s ra addr haddr
  obtain rfl : addr = s.popAddress := haddr
  simp only [exec_pop, finishAccess_memRead]
  exact ⟨fun hvalid => ⟨.inl ⟨hvalid, rfl⟩, .inl ⟨hvalid, rfl⟩⟩,
    fun hvalid => ⟨.inr ⟨hvalid, rfl⟩, .inr ⟨hvalid, rfl⟩⟩⟩

/-- A value written to a stack operand is read back from it. -/
theorem readStackOperand_writeStackOperand (s : State) (v sp : Word) (operand : StackOperand) :
    (((s.writeStackOperand v operand).setSp sp).advance).readStackOperand operand = v := by
  cases operand with
  | link => rfl
  | reg ra => simp [State.writeStackOperand, State.readStackOperand]

theorem writeStackOperand_mem (s : State) (v : Word) (operand : StackOperand) :
    (s.writeStackOperand v operand).mem = s.mem := by
  cases operand <;> rfl

/-- After a PUSH from `s`, POP loads from the slot that was pushed to, under either discipline. -/
theorem exec_pop_of_pushed {s t : State} (operand : StackOperand) (hparams : t.params = s.params)
    (hsp : t.sp = s.sp + 1) (hvalid : memValid s.params s.pushAddress = true) :
    exec (.pop operand) t = .next
      ((t.writeStackOperand (t.mem.read s.pushAddress.toNat) operand).setSp s.sp).advance := by
  have hslot : t.popAddress = s.pushAddress := by
    rw [State.popAddress, State.pushAddress, hparams, hsp, BitVec.add_sub_cancel]
  have hback : t.sp - 1 = s.sp := by rw [hsp, BitVec.add_sub_cancel]
  rw [exec_pop, hslot, hback]
  exact finishAccess_memRead.mpr (.inl ⟨hparams ▸ hvalid, rfl⟩)

/-- Settles O57: POP finds the pushed word in the slot, and changes no memory. -/
theorem pushThenPop : Obligations.PushThenPop := by
  intro s x y slot hslot hvalid htext
  obtain rfl : slot = s.pushAddress := hslot
  obtain ⟨m, hpush, hstored⟩ :=
    (pushResult s x s.pushAddress (s.readStackOperand x) rfl (by cases x <;> rfl)).1 hvalid htext
  refine ⟨_, _, hpush, exec_pop_of_pushed (s := s) y rfl rfl hvalid, rfl, ?_, ?_⟩
  · rw [readStackOperand_writeStackOperand]
    exact (hstored _).trans (if_pos rfl)
  · rw [State.advance_mem, State.setSp_mem, writeStackOperand_mem]
    exact hstored

/-! ## UNDEFINED opcodes (30_encoding.md R73) -/

/-- Settles O58: the six meanings are one raise. -/
theorem undefinedOpcodesRaise : Obligations.UndefinedOpcodesRaise := by
  rintro s _ w rfl
  exact ⟨rfl, rfl, rfl, rfl, rfl, rfl⟩

end Sys2Proof
end
